-- ==== Sys2Proof/Word.lean ====
section
/-! DEFINITION. The widths of the GF128-GCM core and its field element (00_scope R10, R12; 10_state R21). -/

namespace Sys2Proof

/-- A byte of memory or of a byte string (00_scope R11). -/
abbrev Byte := BitVec 8

/-- A host register, an address, a length, a command word: 64 bits (00_scope R9). -/
abbrev Word := BitVec 64

/-- A byte string, first byte first (00_scope R11). A *block* is a byte string of length 16. -/
abbrev Bytes := List Byte

/-- A FieldElement `{low, high}` of GF(2^128), which is also what a vector register holds (00_scope R12, 10_state R21).
`low` holds the lowest degrees and the first eight bytes of the block. -/
structure FieldElement where
  low : Word
  high : Word
  deriving DecidableEq, Repr, Inhabited

/-- The zero element `{0, 0}` (40_field R120). -/
def FieldElement.zero : FieldElement := { low := 0, high := 0 }

end Sys2Proof
end

