-- ==== Sys2Proof/Config.lean ====
section
/-! DEFINITION. The parameters the spec leaves to the environment (00_scope R8, 93 U8), as constants with no body: nothing in
Lean can evaluate them, so a claim about them holds for every value. -/

namespace Sys2Proof

/-- The block cipher's `Encrypt` under the key the collaborator holds (00_scope R8, `E`), block in and block out as vector
registers hold them (10_state R21). Any function at all: log 2. -/
opaque Config.encrypt : FieldElement → FieldElement

/-- The answer of the cipher's `BlockSize()` (00_scope R8, `BS`): log 2. -/
opaque Config.blockSize : Nat

/-- The host's random source (45_random_nonce R231, `Rand`): the k-th draw, 12 bytes written as one 96-bit big-endian
number: log 9. -/
opaque Config.rand : Nat → BitVec 96

/-- What a byte past the top of the address space reads as for the host: a free value (log 12). -/
opaque Config.freeByte : Nat → Byte

/-- Where a byte lands that the host writes past the top of the address space, if it lands in memory at all: a free value
(log 12). -/
opaque Config.freePlace : Nat → Option Word

/-- The 64-bit value of a host sum that no 64-bit register can hold: a free value (log 12). -/
opaque Config.freeWord : Nat → Word

end Sys2Proof
end

