-- ==== Sys2Proof/Syntax.lean ====
section
/-! DEFINITION. The twelve commands of GCMC-1, one constructor per row of the opcode table (30_encoding R95). -/

namespace Sys2Proof

/-- A register field `VD`, `VA` or `VB` of the command word: four bits, of which bit 3 must be 0 (30_encoding R91). -/
abbrev RegField := BitVec 4

/-- A command. The operand registers (addresses, lengths, sizes) are not in the word: each command reads them implicitly
(30_encoding R94). -/
inductive Instr where
  /-- `FADD vd, va, vb` (40_field R122). -/
  | fadd (vd va vb : RegField)
  /-- `FDBL vd, va` (40_field R125). -/
  | fdbl (vd va : RegField)
  /-- `FMUL vd, va` (41_table_mul R148). -/
  | fmul (vd va : RegField)
  /-- `GHUPD vd` (42_ghash R164). -/
  | ghupd (vd : RegField)
  /-- `CTRX vd` (43_ctr R176). -/
  | ctrx (vd : RegField)
  /-- `CENC vd, va` (43_ctr R174). -/
  | cenc (vd va : RegField)
  /-- `CINC vd, va` (43_ctr R175). -/
  | cinc (vd va : RegField)
  /-- `INIT` (44_gcm R192). -/
  | initCtx
  /-- `SEAL` (44_gcm R208). -/
  | sealMsg
  /-- `OPEN` (44_gcm R212). -/
  | openMsg
  /-- `DERIVE vd` (44_gcm R200). -/
  | derive (vd : RegField)
  /-- `AUTH vd, va` (44_gcm R206). -/
  | auth (vd va : RegField)
  deriving DecidableEq, Repr

end Sys2Proof
end

