-- ==== Sys2Proof/Machine/State.lean ====
section
/-! DEFINITION. The state of the core (10_state R20) and of the agents around it, the stops, and the state after reset. -/

namespace Sys2Proof.Machine

/-- Memory as the bytes that differ from what an unlisted address reads as, addresses strictly rising (20_memory R60; log 1). -/
abbrev Memory := List Host.Cell

/-- The n bytes from an address on (20_memory R65). The sum `addr + len` is taken in the integers. -/
structure Region where
  addr : Nat
  len : Nat
  deriving DecidableEq, Repr

/-- The causes of a fatal error (10_state R28, 60_exceptions R241). -/
inductive Cause where
  | illegalCmd
  | notReady
  | nonceLen
  | msgTooLarge
  | overlap
  | range
  | aadTooLarge
  deriving DecidableEq, Repr

/-- The result codes of a command that runs to completion (10_state R27). -/
inductive ResultCode where
  | ok
  | authFail
  | invalidTagSize
  | invalidNonceSize
  | unsupportedBlockSize
  deriving DecidableEq, Repr

/-- The three phases of the core (10_state R40). -/
inductive Phase where
  | idle
  | busy
  | faulted
  deriving DecidableEq, Repr

/-- The context: the hardware form of the source's GCM value (10_state R33). -/
structure Context where
  valid : Bool
  nonceSize : Word
  tagSize : Word
  table : Vector FieldElement 16
  deriving DecidableEq, Repr

/-- The cleared context (44_gcm R192 `CLEAR`; 10_state R45). -/
def Context.clear : Context :=
  { valid := false, nonceSize := 0, tagSize := 0, table := Vector.replicate 16 FieldElement.zero }

/-- The block cipher collaborator (10_state R38): the pairs `(src, Encrypt(src))` that are fixed as data; every other
block is answered by the opaque `Config.encrypt`. `blockSize` is the answer of `BlockSize()`. No step changes either (log 2). -/
structure Cipher where
  blockSize : Nat
  answers : List (FieldElement × FieldElement)
  deriving DecidableEq, Repr

/-- A request of the core to the cipher (10_state R38, 20_memory R75). -/
inductive CipherRequest where
  | blockSize
  | encrypt (src : Bytes)
  deriving DecidableEq, Repr

/-- What the host, the platform or the schedule does next (30_encoding R97, 70_reset R280, 45_random_nonce; log 3). -/
inductive HostEvent where
  /-- Host write of the 64-bit value to the register number (10_state R42). -/
  | writeReg (n : Nat) (v : Word)
  /-- Host read of the register number (10_state R41). -/
  | readReg (n : Nat)
  /-- Host write of the bytes to memory from the address up. -/
  | writeMem (addr : Word) (bytes : Bytes)
  /-- Host read of `len` bytes of memory from the address up. -/
  | readMem (addr : Word) (len : Nat)
  /-- The reset input (70_reset R280 (a)). -/
  | resetInput
  /-- The core's turn: its command step if the phase is BUSY (10_state R44), nothing otherwise. -/
  | coreTurn
  /-- The pseudo-operation RSEAL (45_random_nonce R232). -/
  | rseal (dst nlen src len aad alen : Word)
  /-- The pseudo-operation ROPEN (45_random_nonce R234). -/
  | ropen (dst nlen src len aad alen : Word)
  deriving DecidableEq, Repr

/-- What the host has seen: the value of a read, or the outcome of a pseudo-operation that issues no command. -/
inductive Observation where
  | reg (n : Nat) (v : Word)
  | mem (addr : Word) (bytes : Bytes)
  /-- `HostAbort`: the host software's own abort of a pseudo-operation (45_random_nonce R232, R234). -/
  | hostAbort
  /-- ROPEN of fewer than 28 bytes: the recoverable AuthenticationFailed (45_random_nonce R234, 90_conflicts C7). -/
  | authenticationFailed
  deriving DecidableEq, Repr

/-- The state. The first group is the tuple of 10_state R20, whole; the second is the model's own: the cipher collaborator,
the host, and the record of what passed between them and the core. -/
structure State where
  /-- `V[0..7]` (10_state R21). -/
  vregs : Vector FieldElement 8
  /-- The operand registers (10_state R23, R30, R32). -/
  cfgNonceSize : Word
  cfgTagSize : Word
  dstAddr : Word
  srcAddr : Word
  srcLen : Word
  aadAddr : Word
  aadLen : Word
  nonceAddr : Word
  nonceLen : Word
  /-- `OUT_LEN` (10_state R32). -/
  outLen : Word
  /-- `CTX` (10_state R33). -/
  ctx : Context
  /-- `STATUS.BUSY`, `STATUS.FAULT`, `STATUS.RESULT`, `STATUS.FCAUSE` (10_state R25). -/
  busy : Bool
  fault : Bool
  result : Byte
  fcause : Byte
  /-- `CMDL`, the command latch (10_state R43). -/
  cmdl : Word
  /-- `Mem` (10_state R39). -/
  mem : Memory
  /-- The model's own: the cipher collaborator (10_state R38; log 2). -/
  cipher : Cipher
  /-- The model's own: the requests made to it, oldest first (10_state R38; log 10). -/
  requests : List CipherRequest
  /-- The model's own: what the host and the reset input do next (log 3, log 4). -/
  script : List HostEvent
  /-- The model's own: what the host has seen, newest first (log 4). -/
  seen : List Observation
  /-- The model's own: the regions of the commands started and not yet seen completed (70_reset R290; log 5). -/
  claimedReads : List Region
  claimedWrites : List Region
  /-- The model's own: the first draws of the host's random source, and how many were made (45_random_nonce R231; log 9). -/
  randoms : List (BitVec 96)
  draws : Nat
  /-- The model's own: how many free values the host's accesses past the top of the address space have used (log 12). -/
  free : Nat
  deriving DecidableEq, Repr

/-- The stops of the machine with a fault: there are none. The core's fatal errors are next states (60_exceptions R243), and
memory never refuses an access (20_memory R72). -/
inductive Fault where
  deriving DecidableEq, Repr

/-- The stops of the machine with a refusal. -/
inductive Refusal where
  /-- Raised by an arm of `exec` whose instruction has no meaning yet. None is left. Safe. -/
  | notModelled (mnemonic : String)
  /-- The host writes a byte of a region of a command it has started and not yet seen completed, or reads a byte of a
  region that command writes (70_reset R290, 93_implementation_defined U3: refuse). Safe: the spec defines no result (log 5). -/
  | hostTouchedBuffer
  /-- RSEAL or ROPEN is called without the context it requires, nonce size 12 and tag size 16 (45_random_nonce R230, which gives
  no outcome). Safe: nothing can be proved of such a call (log 20). -/
  | wrapperContext
  deriving DecidableEq, Repr

/-- What a step answers. -/
abbrev Out := Host.Outcome State Fault Refusal

/-- The state after reset with memory `Mem0` (10_state R45, 70_reset R280: "The model starts in the state after reset with
memory `Mem0`"). -/
def State.start (mem0 : Memory) : State where
  vregs := Vector.replicate 8 FieldElement.zero
  cfgNonceSize := 0
  cfgTagSize := 0
  dstAddr := 0
  srcAddr := 0
  srcLen := 0
  aadAddr := 0
  aadLen := 0
  nonceAddr := 0
  nonceLen := 0
  outLen := 0
  ctx := Context.clear
  busy := false
  fault := false
  result := 0
  fcause := 0
  cmdl := 0
  mem := mem0
  cipher := { blockSize := Config.blockSize, answers := [] }
  requests := []
  script := []
  seen := []
  claimedReads := []
  claimedWrites := []
  randoms := []
  draws := 0
  free := 0

/-- The state after reset, with nothing listed in memory (log 1) and nothing in the host's script (log 3). -/
def State.reset : State := State.start []

end Sys2Proof.Machine
end

