-- ==== Sys2Proof/Machine/Flags.lean ====
section
/-! DEFINITION. The status: result and cause codes, the STATUS word, the phase (10_state R25, R27, R28, R40). -/

namespace Sys2Proof.Machine

/-- The number of a result code in `STATUS.RESULT` (10_state R27). -/
def ResultCode.code : ResultCode → Byte
  | .ok => 0x00
  | .authFail => 0x01
  | .invalidTagSize => 0x02
  | .invalidNonceSize => 0x03
  | .unsupportedBlockSize => 0x04

/-- The number of a cause in `STATUS.FCAUSE` (10_state R28). -/
def Cause.code : Cause → Byte
  | .illegalCmd => 0x01
  | .notReady => 0x02
  | .nonceLen => 0x03
  | .msgTooLarge => 0x04
  | .overlap => 0x05
  | .range => 0x06
  | .aadTooLarge => 0x07

/-- The STATUS word: FCAUSE in 23:16, RESULT in 15:8, FAULT, READY, BUSY in bits 2, 1, 0, zeros elsewhere (10_state R25). -/
def statusWord (s : State) : Word :=
  0#40 ++ s.fcause ++ s.result ++ 0#5 ++ BitVec.ofBool s.fault ++ BitVec.ofBool s.ctx.valid ++ BitVec.ofBool s.busy

/-- The phase (10_state R40). BUSY = 1 with FAULT = 1 does not occur; it counts as FAULTED (log 8). -/
def phase (s : State) : Phase :=
  if s.fault then .faulted else if s.busy then .busy else .idle

end Sys2Proof.Machine
end

