-- ==== Sys2Proof/Machine/ByteOrder.lean ====
section
/-! DEFINITION. Byte strings, blocks and field elements: every multi-byte quantity is big-endian (00_scope R11, R12;
20_memory R63). -/

namespace Sys2Proof.Machine

/-- `zeros(n)` (00_scope R11). -/
def zeros (n : Nat) : Bytes := List.replicate n 0

/-- `BE64(b)`: the first byte is the most significant (00_scope R11). A byte past the end of `b` counts as 0. -/
def be64 (b : Bytes) : Word :=
  b.getD 0 0 ++ b.getD 1 0 ++ b.getD 2 0 ++ b.getD 3 0 ++ b.getD 4 0 ++ b.getD 5 0 ++ b.getD 6 0 ++ b.getD 7 0

/-- `BYTES8(v)`: the 8 bytes with `BE64(BYTES8(v)) = v` (00_scope R11). -/
def bytes8 (v : Word) : Bytes :=
  [v.extractLsb' 56 8, v.extractLsb' 48 8, v.extractLsb' 40 8, v.extractLsb' 32 8,
   v.extractLsb' 24 8, v.extractLsb' 16 8, v.extractLsb' 8 8, v.extractLsb' 0 8]

/-- `BE32(b)` (00_scope R11). -/
def be32 (b : Bytes) : BitVec 32 := b.getD 0 0 ++ b.getD 1 0 ++ b.getD 2 0 ++ b.getD 3 0

/-- `BYTES4(v)` (00_scope R11). -/
def bytes4 (v : BitVec 32) : Bytes :=
  [v.extractLsb' 24 8, v.extractLsb' 16 8, v.extractLsb' 8 8, v.extractLsb' 0 8]

/-- `FromBytes(b)`, for a block: `{low = BE64(b[0..8)), high = BE64(b[8..16))}` (00_scope R12). -/
def fromBytes (b : Bytes) : FieldElement := { low := be64 (b.take 8), high := be64 (b.drop 8) }

/-- `ToBytes(x)`: `BYTES8(x.low) || BYTES8(x.high)` (00_scope R12). -/
def toBytes (x : FieldElement) : Bytes := bytes8 x.low ++ bytes8 x.high

/-- `a XOR b` bytewise; where one string is longer its leading bytes are used (00_scope R11; 43_ctr R172 for the mask of a
partial chunk). -/
def xorBytes (a b : Bytes) : Bytes := List.zipWith (· ^^^ ·) a b

/-- The 12 bytes of a random draw, most significant first (45_random_nonce R231). -/
def bytes12 (v : BitVec 96) : Bytes :=
  [v.extractLsb' 88 8, v.extractLsb' 80 8, v.extractLsb' 72 8, v.extractLsb' 64 8,
   v.extractLsb' 56 8, v.extractLsb' 48 8, v.extractLsb' 40 8, v.extractLsb' 32 8,
   v.extractLsb' 24 8, v.extractLsb' 16 8, v.extractLsb' 8 8, v.extractLsb' 0 8]

end Sys2Proof.Machine
end

