-- ==== Sys2Proof/Machine/FieldArith.lean ====
section
/-! DEFINITION. The arithmetic of GF(2^128): Add, Double, ReverseBits, BuildTable, the reduction table, Mul (files 40 and 41). -/

namespace Sys2Proof.Machine

/-- `Add(x, y)`: componentwise exclusive or (40_field R123). -/
def add (x y : FieldElement) : FieldElement := { low := x.low ^^^ y.low, high := x.high ^^^ y.high }

/-- `Double(x)`: multiplication by x, the carry going from the low bit of `low` to the top bit of `high` (40_field R127,
90_conflicts C1). -/
def double (x : FieldElement) : FieldElement :=
  let carry := x.high.getLsbD 0
  let high := (x.high >>> 1) ||| (x.low <<< 63)
  let low := x.low >>> 1
  { low := if carry then low ^^^ 0xe100000000000000 else low, high := high }

/-- `ReverseBits(i)` of a 4-bit value (41_table_mul R141). -/
def reverseBits (i : BitVec 4) : BitVec 4 :=
  BitVec.ofBool (i.getLsbD 0) ++ BitVec.ofBool (i.getLsbD 1) ++ BitVec.ofBool (i.getLsbD 2) ++ BitVec.ofBool (i.getLsbD 3)

/-- A product table: 16 field elements indexed by a 4-bit number (10_state R34). -/
abbrev Table := Vector FieldElement 16

/-- Entry `n` of a product table. -/
def tableGet (t : Table) (n : BitVec 4) : FieldElement := t[n.toNat]'n.isLt

/-- Entry `n` of a product table replaced. -/
def tableSet (t : Table) (n : BitVec 4) (x : FieldElement) : Table := t.set n.toNat x n.isLt

/-- One turn of BuildTable's loop, for an even `i`: entry `i` is the Double of entry `i/2`, entry `i+1` is entry `i` plus H
(41_table_mul R143). -/
def buildTableStep (h : FieldElement) (t : Table) (i : BitVec 4) : Table :=
  let t := tableSet t (reverseBits i) (double (tableGet t (reverseBits (i >>> 1))))
  tableSet t (reverseBits (i + 1)) (add (tableGet t (reverseBits i)) h)

/-- `BuildTable(H)`: `table[ReverseBits(i)] = i·H` (41_table_mul R143). -/
def buildTable (h : FieldElement) : Table :=
  [2, 4, 6, 8, 10, 12, 14].foldl (buildTableStep h)
    (tableSet (Vector.replicate 16 FieldElement.zero) (reverseBits 1) h)

/-- The constant reduction table `RED[0..15]` (41_table_mul R144, 10_state R35). -/
def redTable : Vector (BitVec 16) 16 :=
  #v[0x0000, 0x1c20, 0x3840, 0x2460, 0x7080, 0x6ca0, 0x48c0, 0x54e0,
     0xe100, 0xfd20, 0xd940, 0xc560, 0x9180, 0x8da0, 0xa9c0, 0xb5e0]

/-- `RED[n]`. -/
def red (n : BitVec 4) : BitVec 16 := redTable[n.toNat]'n.isLt

/-- The multiplication of Mul's accumulator by x^4: the shift by four bits, with the nibble it drops (the low four bits of
`high`, 90_conflicts C2) folded back through the reduction table (41_table_mul R145). -/
def shift4 (z : FieldElement) : FieldElement :=
  let dropped := z.high.extractLsb' 0 4
  { low := (z.low >>> 4) ^^^ ((red dropped).setWidth 64 <<< 48)
    high := (z.high >>> 4) ||| (z.low <<< 60) }

/-- One nibble of Mul: shift the accumulator, then add the table entry of the nibble (41_table_mul R145). -/
def mulNibble (t : Table) (z : FieldElement) (n : BitVec 4) : FieldElement := add (shift4 z) (tableGet t n)

/-- `k` nibbles of one word of y, from its low end upward (41_table_mul R145). -/
def mulWord (t : Table) : Nat → Word → FieldElement → FieldElement
  | 0, _, z => z
  | k + 1, w, z => mulWord t k (w >>> 4) (mulNibble t z (w.extractLsb' 0 4))

/-- `Mul(y, table)`: 16 nibbles of `y.high`, then 16 of `y.low` (41_table_mul R145, 90_conflicts C3). -/
def mul (y : FieldElement) (t : Table) : FieldElement :=
  mulWord t 16 y.low (mulWord t 16 y.high FieldElement.zero)

end Sys2Proof.Machine
end

