-- ==== Sys2Proof/Machine/GhashArith.lean ====
section
/-! DEFINITION. GHASH absorption (file 42). -/

namespace Sys2Proof.Machine

/-- One block of UpdateBlocks: `y = Mul(Add(y, FromBytes(b)), table)` (42_ghash R160). -/
def absorb (t : Table) (y : FieldElement) (b : Bytes) : FieldElement := mul (add y (fromBytes b)) t

/-- The first `k` blocks of `blocks` absorbed in order (42_ghash R160). -/
def updateBlocksN (t : Table) : Nat → FieldElement → Bytes → FieldElement
  | 0, y, _ => y
  | k + 1, y, blocks => updateBlocksN t k (absorb t y (blocks.take 16)) (blocks.drop 16)

/-- `UpdateBlocks(y, blocks, table)` (42_ghash R160). -/
def updateBlocks (y : FieldElement) (blocks : Bytes) (t : Table) : FieldElement :=
  updateBlocksN t (blocks.length / 16) y blocks

/-- `Update(y, data, table)`: the whole blocks, then the partial chunk padded with zeros (42_ghash R162). -/
def update (y : FieldElement) (data : Bytes) (t : Table) : FieldElement :=
  let full := data.length / 16 * 16
  let y := updateBlocks y (data.take full) t
  if data.length ≠ full then
    updateBlocks y (data.drop full ++ zeros (16 - (data.length - full))) t
  else y

end Sys2Proof.Machine
end

