-- ==== Sys2Proof/Machine/CounterArith.lean ====
section
/-! DEFINITION. Counter mode (file 43). The cipher's `Encrypt` is the argument `E`. -/

namespace Sys2Proof.Machine

/-- `Inc32(c)`: the last four bytes as a big-endian count, plus one modulo 2^32; bytes 0 to 11 stay (43_ctr R170). -/
def inc32 (c : Bytes) : Bytes := c.take 12 ++ bytes4 (be32 ((c.drop 12).take 4) + 1)

/-- `Inc32` applied `k` times. -/
def incBy : Nat → Bytes → Bytes
  | 0, c => c
  | k + 1, c => incBy k (inc32 c)

/-- The `k` counter blocks from `c` on: what a run of `k` chunks asks the cipher to encrypt, in order (43_ctr R172). -/
def counterBlocks : Nat → Bytes → List Bytes
  | 0, _ => []
  | k + 1, c => c :: counterBlocks k (inc32 c)

/-- `ceil(n / 16)`: the number of chunks of an input of `n` bytes (43_ctr R172). -/
def chunks (n : Nat) : Nat := (n + 15) / 16

/-- The output of `k` chunks of counter mode: each chunk exclusive-ored with the leading bytes of its mask (43_ctr R172). -/
def keystreamXor (E : Bytes → Bytes) : Nat → Bytes → Bytes → Bytes
  | 0, _, _ => []
  | k + 1, inp, c => xorBytes (inp.take 16) (E c) ++ keystreamXor E k (inp.drop 16) (inc32 c)

/-- `counterCrypt(in, counter) -> (out, counter')` (43_ctr R172). -/
def counterCrypt (E : Bytes → Bytes) (inp counter : Bytes) : Bytes × Bytes :=
  (keystreamXor E (chunks inp.length) inp counter, incBy (chunks inp.length) counter)

end Sys2Proof.Machine
end

