-- ==== Sys2Proof/Machine/GcmArith.lean ====
section
/-! DEFINITION. The functions of the GCM engine: deriveCounter, auth, Seal, Open (file 44). -/

namespace Sys2Proof.Machine

/-- The plaintext cap `((2^32) - 2) * 16` (00_scope R7). -/
def cap : Nat := (2 ^ 32 - 2) * 16

/-- The bound `2^61` below which a length's bit count fits 64 bits (00_scope R9). -/
def bitLenBound : Nat := 2 ^ 61

/-- The bit length of a string of `n` bytes as one half of a length block (44_gcm R198, R204). -/
def bitLen (n : Nat) : Word := BitVec.ofNat 64 (n * 8)

/-- The absorption of the length block `BYTES8(a*8) || BYTES8(c*8)` (44_gcm R198, R204). -/
def absorbLengths (t : Table) (y : FieldElement) (a c : Nat) : FieldElement :=
  mul { low := y.low ^^^ bitLen a, high := y.high ^^^ bitLen c } t

/-- `deriveCounter(nonce, table)` (44_gcm R198). -/
def deriveCounter (nonce : Bytes) (t : Table) : Bytes :=
  if nonce.length = 12 then nonce ++ [0x00, 0x00, 0x00, 0x01]
  else toBytes (absorbLengths t (update FieldElement.zero nonce t) 0 nonce.length)

/-- `auth(ciphertext, aad, tagMask, table)`: the full 16-byte tag (44_gcm R204). -/
def authTag (ct aad mask : Bytes) (t : Table) : Bytes :=
  xorBytes (toBytes (absorbLengths t (update (update FieldElement.zero aad t) ct t) aad.length ct.length)) mask

/-- `Seal(nonce, plaintext, aad)` with tag size `ts` (44_gcm R207). -/
def gcmSeal (E : Bytes → Bytes) (t : Table) (ts : Nat) (nonce pt aad : Bytes) : Bytes :=
  let counter0 := deriveCounter nonce t
  let mask := E counter0
  let ct := (counterCrypt E pt (inc32 counter0)).1
  ct ++ (authTag ct aad mask t).take ts

/-- `ConstantTimeEq(a, b)`: in a model without time, equality of byte strings (44_gcm R210). -/
def constantTimeEq (a b : Bytes) : Bool := a == b

/-- The tag Open expects of a body (44_gcm R211). -/
def expectedTag (E : Bytes → Bytes) (t : Table) (ts : Nat) (nonce body aad : Bytes) : Bytes :=
  (authTag body aad (E (deriveCounter nonce t)) t).take ts

/-- `Open(nonce, ciphertext, aad)`; `none` is AuthenticationFailed (44_gcm R211). -/
def gcmOpen (E : Bytes → Bytes) (t : Table) (ts : Nat) (nonce ciphertext aad : Bytes) : Option Bytes :=
  if ciphertext.length < ts ∨ ciphertext.length > cap + ts then none
  else
    let body := ciphertext.take (ciphertext.length - ts)
    let tag := ciphertext.drop (ciphertext.length - ts)
    if constantTimeEq (expectedTag E t ts nonce body aad) tag then
      some (counterCrypt E body (inc32 (deriveCounter nonce t))).1
    else none

end Sys2Proof.Machine
end

