-- ==== Sys2Proof/Machine/Ops.lean ====
section
/-! DEFINITION. The named operations over memory, registers and the cipher port; the fatal error and the way out of it. -/

namespace Sys2Proof.Machine

/-- What an address not listed reads as (log 1). -/
def Memory.unlisted : Byte := 0

/-- The size of the address space (20_memory R60). -/
def addressSpace : Nat := 2 ^ 64

/-- One byte of memory (20_memory R61). -/
def Memory.read : Memory → Nat → Byte
  | [], _ => Memory.unlisted
  | (k, v) :: m, a => if a = k then v else Memory.read m a

/-- A byte put at an address among rising addresses. -/
def Memory.insert : Memory → Nat → Byte → Memory
  | [], a, v => [(a, v)]
  | (k, w) :: m, a, v =>
    if a < k then (a, v) :: (k, w) :: m
    else if a = k then (a, v) :: m
    else (k, w) :: Memory.insert m a v

/-- One byte of memory written (20_memory R62). Writing what an unlisted address reads as takes the entry away, so that equal
memories are equal data. -/
def Memory.write (m : Memory) (a : Nat) (v : Byte) : Memory :=
  if v = Memory.unlisted then m.filter (fun c => c.1 ≠ a) else Memory.insert m a v

/-- `MemRead(addr, n)`: the byte at the lowest address first (20_memory R61). -/
def Memory.readN (m : Memory) (a : Nat) : Nat → Bytes
  | 0 => []
  | n + 1 => Memory.read m a :: Memory.readN m (a + 1) n

/-- `MemWrite(addr, n, v)`: `v[0]` to the lowest address, no other byte (20_memory R62). -/
def Memory.writeN (m : Memory) (a : Nat) : Bytes → Memory
  | [] => m
  | v :: vs => Memory.writeN (Memory.write m a v) (a + 1) vs

/-- Addresses strictly rising from `lo` on and inside the address space, no entry equal to what an unlisted address reads as. -/
def Memory.wfFrom (lo : Nat) : Memory → Bool
  | [] => true
  | (k, v) :: m => decide (lo ≤ k) && decide (k < addressSpace) && decide (v ≠ Memory.unlisted) && Memory.wfFrom (k + 1) m

/-- The canonical form of memory. -/
def Memory.wf (m : Memory) : Bool := Memory.wfFrom 0 m

/-- The number of a vector register: the low three bits of its field (30_encoding R91). -/
def regIndex (r : RegField) : Fin 8 := ⟨r.toNat % 8, Nat.mod_lt _ (by decide)⟩

/-- `V[r]` (10_state R21). -/
def State.getV (s : State) (r : RegField) : FieldElement := s.vregs[(regIndex r).val]

/-- `V[r] <- x` (10_state R21). -/
def State.setV (s : State) (r : RegField) (x : FieldElement) : State :=
  { s with vregs := s.vregs.set (regIndex r).val x }

/-- The collaborator's `Encrypt` on a block held in a vector register: its data first, the opaque parameter for the rest
(00_scope R8; log 2). -/
def Cipher.encryptElement (c : Cipher) (x : FieldElement) : FieldElement :=
  match c.answers.lookup x with
  | some y => y
  | none => Config.encrypt x

/-- `E(b)`: one Encrypt request, 16 bytes in and 16 bytes out, byte 0 first (20_memory R75). -/
def Cipher.encrypt (c : Cipher) (b : Bytes) : Bytes := toBytes (c.encryptElement (fromBytes b))

/-- The requests a command made, put at the end of the record (10_state R38; log 10). -/
def State.request (s : State) (rs : List CipherRequest) : State := { s with requests := s.requests ++ rs }

/-- TAKING THE FATAL ERROR `raise Fatal(cause)`: FAULT, FCAUSE and BUSY change, everything else keeps its value
(60_exceptions R243). -/
def State.raiseFatal (s : State) (c : Cause) : State := { s with fault := true, fcause := c.code, busy := false }

/-- THE WAY OUT OF IT, and reset altogether: every piece of 10_state R20 except memory takes its reset value; memory, the
cipher, and every field of the model's own stay, the regions of commands not yet seen completed among them, since the host's duty
runs to a read of STATUS (10_state R29, R45; 60_exceptions R256; 70_reset R280, R282, R290; log 6). -/
def State.coreReset (s : State) : State :=
  { State.start s.mem with
    cipher := s.cipher
    requests := s.requests
    script := s.script
    seen := s.seen
    claimedReads := s.claimedReads
    claimedWrites := s.claimedWrites
    randoms := s.randoms
    draws := s.draws
    free := s.free }

/-- A command runs to completion with a result code: `BUSY <- 0`, `RESULT <- code` (10_state R44). -/
def State.finish (s : State) (r : ResultCode) : State := { s with busy := false, result := r.code }

/-- The cause of the first test that holds (60_exceptions R248). -/
def firstFailed : List (Bool × Cause) → Option Cause
  | [] => none
  | (true, c) :: _ => some c
  | (false, _) :: rest => firstFailed rest

/-- The tests of a command in order, then its work: the first test that holds is the fatal error the command ends in
(60_exceptions R242, R248). -/
def guarded (tests : List (Bool × Cause)) (s : State) (work : State → Out) : Out :=
  match firstFailed tests with
  | some c => .next (s.raiseFatal c)
  | none => work s

end Sys2Proof.Machine
end

