-- ==== Sys2Proof/WellFormed.lean ====
section
/-! DEFINITION. The well-formed commands: every register field names one of the registers 0 to 7 (30_encoding R91). -/

namespace Sys2Proof

/-- A register field is legal when its bit 3 is 0 (30_encoding R91, R96). -/
def RegField.ok (r : RegField) : Bool := !r.getLsbD 3

/-- The register fields a command uses, in the order `vd, va, vb` (30_encoding R92). -/
def Instr.regs : Instr → List RegField
  | .fadd vd va vb => [vd, va, vb]
  | .fdbl vd va => [vd, va]
  | .fmul vd va => [vd, va]
  | .ghupd vd => [vd]
  | .ctrx vd => [vd]
  | .cenc vd va => [vd, va]
  | .cinc vd va => [vd, va]
  | .initCtx => []
  | .sealMsg => []
  | .openMsg => []
  | .derive vd => [vd]
  | .auth vd va => [vd, va]

/-- Every register field the command uses is a register number 0 to 7. -/
def Instr.wellFormed (i : Instr) : Bool := i.regs.all RegField.ok

end Sys2Proof
end

