-- ==== Sys2Proof/Machine/Operands.lean ====
section
/-! DEFINITION. The operands of a command (30_encoding R94): vector registers, memory regions; the tests on them (20_memory
R65, R66; 60_exceptions R241). -/

namespace Sys2Proof.Machine

/-- Some register field names a register above 7: the word is illegal (30_encoding R96 (3), 60_exceptions R244). -/
def regsIllegal (rs : List RegField) : Bool := !rs.all RegField.ok

/-- A region is in range when `addr + len <= 2^64` in the integers (20_memory R65). -/
def Region.inRange (r : Region) : Bool := decide (r.addr + r.len ≤ addressSpace)

/-- The regions share at least one address (20_memory R66). -/
def anyOverlap (a b : Region) : Bool :=
  decide (0 < a.len) && decide (0 < b.len) && decide (a.addr < b.addr + b.len) && decide (b.addr < a.addr + a.len)

/-- They share an address and do not start at the same one (20_memory R66). -/
def inexactOverlap (a b : Region) : Bool := anyOverlap a b && decide (a.addr ≠ b.addr)

/-- An address lies in a region. -/
def Region.has (r : Region) (a : Nat) : Bool := decide (r.addr ≤ a) && decide (a < r.addr + r.len)

/-- The main input (SRC_ADDR, SRC_LEN) (10_state R23). -/
def State.srcRegion (s : State) : Region := { addr := s.srcAddr.toNat, len := s.srcLen.toNat }

/-- The associated data (AAD_ADDR, AAD_LEN). -/
def State.aadRegion (s : State) : Region := { addr := s.aadAddr.toNat, len := s.aadLen.toNat }

/-- The nonce (NONCE_ADDR, NONCE_LEN). -/
def State.nonceRegion (s : State) : Region := { addr := s.nonceAddr.toNat, len := s.nonceLen.toNat }

/-- The `n` bytes a command writes from DST_ADDR up (20_memory R70). -/
def State.dstRegion (s : State) (n : Nat) : Region := { addr := s.dstAddr.toNat, len := n }

/-- `CTX.tagSize` as a number: `ts`. -/
def State.ts (s : State) : Nat := s.ctx.tagSize.toNat

/-- `body = SRC_LEN - ts` of OPEN (20_memory R70). -/
def State.bodyLen (s : State) : Nat := s.srcLen.toNat - s.ts

/-- The bytes of a region (20_memory R61). -/
def State.bytesOf (s : State) (r : Region) : Bytes := Memory.readN s.mem r.addr r.len

/-- The output bytes stored from DST_ADDR up (20_memory R62). -/
def State.store (s : State) (out : Bytes) : State := { s with mem := Memory.writeN s.mem s.dstAddr.toNat out }

/-- `OUT_LEN <- n` (10_state R32). -/
def State.setOutLen (s : State) (n : Nat) : State := { s with outLen := BitVec.ofNat 64 n }

/-- NOT_READY: `CTX.valid = 0` (60_exceptions R246). -/
def testNotReady (s : State) : Bool × Cause := (!s.ctx.valid, .notReady)

/-- ILLEGAL_CMD: a register number above 7 among the command's fields (60_exceptions R244; log 11). -/
def testRegs (rs : List RegField) : Bool × Cause := (regsIllegal rs, .illegalCmd)

/-- NONCE_LEN: `NONCE_LEN != CTX.nonceSize` (60_exceptions R247). -/
def testNonceLen (s : State) : Bool × Cause := (s.nonceLen != s.ctx.nonceSize, .nonceLen)

/-- MSG_TOO_LARGE: `SRC_LEN > CAP` (60_exceptions R249). -/
def testMsgTooLarge (s : State) : Bool × Cause := (decide (cap < s.srcLen.toNat), .msgTooLarge)

/-- AAD_TOO_LARGE: `AAD_LEN >= 2^61` (60_exceptions R252). -/
def testAadTooLarge (s : State) : Bool × Cause := (decide (bitLenBound ≤ s.aadLen.toNat), .aadTooLarge)

/-- RANGE: some region of the command is out of range (60_exceptions R251). -/
def testRange (rs : List Region) : Bool × Cause := (!rs.all Region.inRange, .range)

end Sys2Proof.Machine
end

