-- ==== Sys2Proof/Machine/CounterUnit.lean ====
section
/-! DEFINITION. The commands of the counter-mode unit: CTRX, CENC, CINC (43_ctr). -/

namespace Sys2Proof.Machine

/-- `CINC vd, va`: the tests (60_exceptions R248). -/
def testsCinc (vd va : RegField) (s : State) : List (Bool × Cause) := [testRegs [vd, va], testNotReady s]

/-- `CINC vd, va`: `V[vd] <- FromBytes(Inc32(ToBytes(V[va])))` (43_ctr R175). -/
def execCinc (vd va : RegField) (s : State) : Out :=
  guarded (testsCinc vd va s) s fun s =>
    .next ((s.setV vd (fromBytes (inc32 (toBytes (s.getV va))))).finish .ok)

/-- `CENC vd, va`: the tests (60_exceptions R248). -/
def testsCenc (vd va : RegField) (s : State) : List (Bool × Cause) := [testRegs [vd, va], testNotReady s]

/-- `CENC vd, va`: `V[vd] <- FromBytes(E(ToBytes(V[va])))`, one Encrypt request (43_ctr R174). -/
def execCenc (vd va : RegField) (s : State) : Out :=
  guarded (testsCenc vd va s) s fun s =>
    let b := toBytes (s.getV va)
    .next (((s.setV vd (fromBytes (s.cipher.encrypt b))).request [.encrypt b]).finish .ok)

/-- The region CTRX writes: (DST_ADDR, SRC_LEN) (20_memory R69). -/
def ctrxOut (s : State) : Region := s.dstRegion s.srcLen.toNat

/-- `CTRX vd`: the tests (60_exceptions R248). -/
def testsCtrx (vd : RegField) (s : State) : List (Bool × Cause) :=
  [testRegs [vd], testNotReady s, testMsgTooLarge s, testRange [s.srcRegion, ctrxOut s],
   (inexactOverlap (ctrxOut s) s.srcRegion, .overlap)]

/-- `CTRX vd`: counter mode from (SRC_ADDR, SRC_LEN) to DST_ADDR under the counter in `V[vd]`, which is left incremented once
per chunk; `OUT_LEN <- SRC_LEN` (43_ctr R176). -/
def execCtrx (vd : RegField) (s : State) : Out :=
  guarded (testsCtrx vd s) s fun s =>
    let counter := toBytes (s.getV vd)
    let r := counterCrypt s.cipher.encrypt (s.bytesOf s.srcRegion) counter
    .next (((((s.store r.1).setV vd (fromBytes r.2)).setOutLen s.srcLen.toNat).request
      ((counterBlocks (chunks s.srcLen.toNat) counter).map .encrypt)).finish .ok)

end Sys2Proof.Machine
end

