-- ==== Sys2Proof/Machine/FieldUnit.lean ====
section
/-! DEFINITION. The commands of the field unit: FADD, FDBL, FMUL (40_field, 41_table_mul). -/

namespace Sys2Proof.Machine

/-- The tests of FADD (60_exceptions R248). -/
def testsFadd (vd va vb : RegField) : List (Bool × Cause) := [testRegs [vd, va, vb]]

/-- `FADD vd, va, vb`: `V[vd] <- Add(V[va], V[vb])` (40_field R122). -/
def execFadd (vd va vb : RegField) (s : State) : Out :=
  guarded (testsFadd vd va vb) s fun s =>
    .next ((s.setV vd (add (s.getV va) (s.getV vb))).finish .ok)

/-- The tests of FDBL (60_exceptions R248). -/
def testsFdbl (vd va : RegField) : List (Bool × Cause) := [testRegs [vd, va]]

/-- `FDBL vd, va`: `V[vd] <- Double(V[va])` (40_field R125). -/
def execFdbl (vd va : RegField) (s : State) : Out :=
  guarded (testsFdbl vd va) s fun s =>
    .next ((s.setV vd (double (s.getV va))).finish .ok)

/-- The tests of FMUL (60_exceptions R248). -/
def testsFmul (vd va : RegField) (s : State) : List (Bool × Cause) := [testRegs [vd, va], testNotReady s]

/-- `FMUL vd, va`: `V[vd] <- Mul(V[va], CTX.table)` (41_table_mul R148). -/
def execFmul (vd va : RegField) (s : State) : Out :=
  guarded (testsFmul vd va s) s fun s =>
    .next ((s.setV vd (mul (s.getV va) s.ctx.table)).finish .ok)

end Sys2Proof.Machine
end

