-- ==== Sys2Proof/Machine/GcmEngine.lean ====
section
/-! DEFINITION. The commands of the GCM engine: INIT, DERIVE, AUTH, SEAL, OPEN (44_gcm). -/

namespace Sys2Proof.Machine

/-- The hash subkey `H = FromBytes(E(zeros(16)))` (44_gcm R192, R193). -/
def hashSubkey (c : Cipher) : FieldElement := fromBytes (c.encrypt (zeros 16))

/-- INIT ends with a result code and the context given (44_gcm R192). -/
def endInit (s : State) (c : Context) (reqs : List CipherRequest) (r : ResultCode) : Out :=
  .next ((({ s with ctx := c } : State).request reqs).finish r)

/-- `INIT`: the three size checks in order, each a result code that leaves the context cleared; else the new context
(44_gcm R192). -/
def execInit (s : State) : Out :=
  if s.cfgTagSize.toNat < 12 ∨ s.cfgTagSize.toNat > 16 then
    endInit s Context.clear [] .invalidTagSize
  else if s.cfgNonceSize.toNat = 0 ∨ s.cfgNonceSize.toNat ≥ bitLenBound then
    endInit s Context.clear [] .invalidNonceSize
  else if s.cipher.blockSize ≠ 16 then
    endInit s Context.clear [.blockSize] .unsupportedBlockSize
  else
    endInit s
      { valid := true, nonceSize := s.cfgNonceSize, tagSize := s.cfgTagSize, table := buildTable (hashSubkey s.cipher) }
      [.blockSize, .encrypt (zeros 16)] .ok

/-- `DERIVE vd`: the tests (60_exceptions R248). -/
def testsDerive (vd : RegField) (s : State) : List (Bool × Cause) :=
  [testRegs [vd], testNotReady s, testNonceLen s, testRange [s.nonceRegion]]

/-- `DERIVE vd`: `V[vd] <- FromBytes(deriveCounter(nonce, CTX.table))` (44_gcm R200). -/
def execDerive (vd : RegField) (s : State) : Out :=
  guarded (testsDerive vd s) s fun s =>
    .next ((s.setV vd (fromBytes (deriveCounter (s.bytesOf s.nonceRegion) s.ctx.table))).finish .ok)

/-- `AUTH vd, va`: the tests (60_exceptions R248). -/
def testsAuth (vd va : RegField) (s : State) : List (Bool × Cause) :=
  [testRegs [vd, va], testNotReady s, testMsgTooLarge s, testAadTooLarge s, testRange [s.srcRegion, s.aadRegion]]

/-- `AUTH vd, va`: `V[vd] <- FromBytes(auth(ct, aad, ToBytes(V[va]), CTX.table))` (44_gcm R206). -/
def execAuth (vd va : RegField) (s : State) : Out :=
  guarded (testsAuth vd va s) s fun s =>
    .next ((s.setV vd (fromBytes
      (authTag (s.bytesOf s.srcRegion) (s.bytesOf s.aadRegion) (toBytes (s.getV va)) s.ctx.table))).finish .ok)

/-- The region SEAL writes: (DST_ADDR, SRC_LEN + ts), ciphertext and tag (20_memory R67). -/
def sealOut (s : State) : Region := s.dstRegion (s.srcLen.toNat + s.ts)

/-- `SEAL`: the tests (60_exceptions R248; 20_memory R67). -/
def testsSeal (s : State) : List (Bool × Cause) :=
  [testNotReady s, testNonceLen s, testMsgTooLarge s, testAadTooLarge s,
   testRange [s.nonceRegion, s.srcRegion, s.aadRegion, sealOut s],
   (inexactOverlap (sealOut s) s.srcRegion || anyOverlap (sealOut s) s.aadRegion, .overlap)]

/-- `counter0` of SEAL and OPEN: deriveCounter of the nonce region (44_gcm R207, R211). -/
def counter0Of (s : State) : Bytes := deriveCounter (s.bytesOf s.nonceRegion) s.ctx.table

/-- The bytes SEAL writes (44_gcm R207). -/
def sealBytes (s : State) : Bytes :=
  gcmSeal s.cipher.encrypt s.ctx.table s.ts (s.bytesOf s.nonceRegion) (s.bytesOf s.srcRegion) (s.bytesOf s.aadRegion)

/-- The Encrypt requests of SEAL and of a successful OPEN over `n` bytes of data: the tag mask, then the keystream by rising
counter (44_gcm R208, R212). -/
def gcmRequests (s : State) (n : Nat) : List CipherRequest :=
  (counter0Of s :: counterBlocks (chunks n) (inc32 (counter0Of s))).map .encrypt

/-- `SEAL`: ciphertext and tag at DST_ADDR, `OUT_LEN <- SRC_LEN + ts` (44_gcm R208). -/
def execSeal (s : State) : Out :=
  guarded (testsSeal s) s fun s =>
    .next ((((s.store (sealBytes s)).setOutLen (s.srcLen.toNat + s.ts)).request
      (gcmRequests s s.srcLen.toNat)).finish .ok)

/-- The region OPEN writes: (DST_ADDR, body) (20_memory R68). -/
def openOut (s : State) : Region := s.dstRegion s.bodyLen

/-- `OPEN`: the tests before its length tests (60_exceptions R248). -/
def testsOpenBefore (s : State) : List (Bool × Cause) := [testNotReady s, testNonceLen s]

/-- OPEN's two length tests, which give AUTH_FAIL (44_gcm R212, 60_exceptions R253). -/
def openLengthBad (s : State) : Bool :=
  decide (s.srcLen.toNat < s.ts) || decide (cap + s.ts < s.srcLen.toNat)

/-- `OPEN`: the tests after its length tests (60_exceptions R248; 20_memory R68). -/
def testsOpenAfter (s : State) : List (Bool × Cause) :=
  [testAadTooLarge s, testRange [s.nonceRegion, s.srcRegion, s.aadRegion, openOut s],
   (inexactOverlap (openOut s) s.srcRegion || anyOverlap (openOut s) s.aadRegion, .overlap)]

/-- What Open answers on the regions of OPEN (44_gcm R211). -/
def openResult (s : State) : Option Bytes :=
  gcmOpen s.cipher.encrypt s.ctx.table s.ts (s.bytesOf s.nonceRegion) (s.bytesOf s.srcRegion) (s.bytesOf s.aadRegion)

/-- `OPEN`: verification before decryption; on a tag mismatch the output region is zeroed (44_gcm R212, 60_exceptions R253;
log 7). -/
def execOpen (s : State) : Out :=
  guarded (testsOpenBefore s) s fun s =>
    if openLengthBad s then .next ((s.setOutLen 0).finish .authFail)
    else guarded (testsOpenAfter s) s fun s =>
      match openResult s with
      | none =>
        .next ((((s.store (zeros s.bodyLen)).setOutLen 0).request [.encrypt (counter0Of s)]).finish .authFail)
      | some pt =>
        .next ((((s.store pt).setOutLen s.bodyLen).request (gcmRequests s s.bodyLen)).finish .ok)

end Sys2Proof.Machine
end

