-- ==== Sys2Proof/Machine/GhashUnit.lean ====
section
/-! DEFINITION. The command of the GHASH unit: GHUPD (42_ghash). -/

namespace Sys2Proof.Machine

/-- The tests of GHUPD (60_exceptions R248). -/
def testsGhupd (vd : RegField) (s : State) : List (Bool × Cause) :=
  [testRegs [vd], testNotReady s, testRange [s.srcRegion]]

/-- `GHUPD vd`: `V[vd] <- Update(V[vd], data, CTX.table)` with the data of (SRC_ADDR, SRC_LEN) (42_ghash R164). -/
def execGhupd (vd : RegField) (s : State) : Out :=
  guarded (testsGhupd vd s) s fun s =>
    .next ((s.setV vd (update (s.getV vd) (s.bytesOf s.srcRegion) s.ctx.table)).finish .ok)

end Sys2Proof.Machine
end

