-- ==== Sys2Proof/Machine/Dispatch.lean ====
section
/-! DEFINITION. One arm per command. -/

namespace Sys2Proof.Machine

def exec (i : Instr) (s : State) : Host.Outcome State Fault Refusal :=
  match i with
  | .fadd vd va vb => Sys2Proof.Machine.execFadd vd va vb s
  | .fdbl vd va => Sys2Proof.Machine.execFdbl vd va s
  | .fmul vd va => Sys2Proof.Machine.execFmul vd va s
  | .ghupd vd => Sys2Proof.Machine.execGhupd vd s
  | .ctrx vd => Sys2Proof.Machine.execCtrx vd s
  | .cenc vd va => Sys2Proof.Machine.execCenc vd va s
  | .cinc vd va => Sys2Proof.Machine.execCinc vd va s
  | .initCtx => Sys2Proof.Machine.execInit s
  | .sealMsg => Sys2Proof.Machine.execSeal s
  | .openMsg => Sys2Proof.Machine.execOpen s
  | .derive vd => Sys2Proof.Machine.execDerive vd s
  | .auth vd va => Sys2Proof.Machine.execAuth vd va s

end Sys2Proof.Machine
end

