-- ==== Sys2Proof/Decode.lean ====
section
/-! DEFINITION. Decoding a command word (30_encoding R90 to R96, R100) and the encoder written from the same tables. -/

namespace Sys2Proof

/-- Why a command word is illegal (30_encoding R96, R100). All four end in the one fatal error ILLEGAL_CMD. -/
inductive Illegal where
  /-- `w[63:20] != 0`. -/
  | zeroFieldSet
  /-- `w[7:0]` is none of the twelve opcodes. -/
  | unknownOpcode
  /-- A register field the format uses has bit 3 set. -/
  | registerAbove7
  /-- A register field the format does not use is not 0. -/
  | unusedFieldSet
  deriving DecidableEq, Repr

/-- `OP = w[7:0]` (30_encoding R91). -/
def opField (w : Word) : BitVec 8 := w.extractLsb' 0 8
/-- `VD = w[11:8]`. -/
def vdField (w : Word) : RegField := w.extractLsb' 8 4
/-- `VA = w[15:12]`. -/
def vaField (w : Word) : RegField := w.extractLsb' 12 4
/-- `VB = w[19:16]`. -/
def vbField (w : Word) : RegField := w.extractLsb' 16 4
/-- `ZERO = w[63:20]`. -/
def zeroField (w : Word) : BitVec 44 := w.extractLsb' 20 44

/-- The field test of 30_encoding R96 (3): the fields the format uses have bit 3 clear, the others are 0. -/
def checkFields (used unused : List RegField) (i : Instr) : Except Illegal Instr :=
  if used.all RegField.ok then
    if unused.all (· == 0) then .ok i else .error .unusedFieldSet
  else .error .registerAbove7

/-- Format Z: no register field (30_encoding R92). -/
def decodeZ (w : Word) (i : Instr) : Except Illegal Instr := checkFields [] [vdField w, vaField w, vbField w] i
/-- Format D: `vd`. -/
def decodeD (w : Word) (f : RegField → Instr) : Except Illegal Instr :=
  checkFields [vdField w] [vaField w, vbField w] (f (vdField w))
/-- Format DA: `vd`, `va`. -/
def decodeDA (w : Word) (f : RegField → RegField → Instr) : Except Illegal Instr :=
  checkFields [vdField w, vaField w] [vbField w] (f (vdField w) (vaField w))
/-- Format DAB: `vd`, `va`, `vb`. -/
def decodeDAB (w : Word) (f : RegField → RegField → RegField → Instr) : Except Illegal Instr :=
  checkFields [vdField w, vaField w, vbField w] [] (f (vdField w) (vaField w) (vbField w))

/-- Decoding, in the order of 30_encoding R96: the zero field, the opcode, the register fields. Total: every 64-bit word is
one command or illegal by name. -/
def decode (w : Word) : Except Illegal Instr :=
  if zeroField w ≠ 0 then .error .zeroFieldSet
  else if opField w = 0x10 then decodeDAB w .fadd
  else if opField w = 0x11 then decodeDA w .fdbl
  else if opField w = 0x12 then decodeDA w .fmul
  else if opField w = 0x20 then decodeD w .ghupd
  else if opField w = 0x30 then decodeD w .ctrx
  else if opField w = 0x31 then decodeDA w .cenc
  else if opField w = 0x32 then decodeDA w .cinc
  else if opField w = 0x40 then decodeZ w .initCtx
  else if opField w = 0x41 then decodeZ w .sealMsg
  else if opField w = 0x42 then decodeZ w .openMsg
  else if opField w = 0x43 then decodeD w .derive
  else if opField w = 0x44 then decodeDA w .auth
  else .error .unknownOpcode

/-- A command word from its fields: `ZERO || VB || VA || VD || OP` (30_encoding R91). -/
def wordOf (op : BitVec 8) (vd va vb : RegField) : Word := 0#44 ++ (vb ++ (va ++ (vd ++ op)))

/-- The command word of a command (30_encoding R92, R95). -/
def encode : Instr → Word
  | .fadd vd va vb => wordOf 0x10 vd va vb
  | .fdbl vd va => wordOf 0x11 vd va 0
  | .fmul vd va => wordOf 0x12 vd va 0
  | .ghupd vd => wordOf 0x20 vd 0 0
  | .ctrx vd => wordOf 0x30 vd 0 0
  | .cenc vd va => wordOf 0x31 vd va 0
  | .cinc vd va => wordOf 0x32 vd va 0
  | .initCtx => wordOf 0x40 0 0 0
  | .sealMsg => wordOf 0x41 0 0 0
  | .openMsg => wordOf 0x42 0 0 0
  | .derive vd => wordOf 0x43 vd 0 0
  | .auth vd va => wordOf 0x44 vd va 0

/-- The `match` column of the opcode table (30_encoding R95). -/
def Instr.rowMatch : Instr → Word
  | .fadd .. => 0x10
  | .fdbl .. => 0x11
  | .fmul .. => 0x12
  | .ghupd .. => 0x20
  | .ctrx .. => 0x30
  | .cenc .. => 0x31
  | .cinc .. => 0x32
  | .initCtx => 0x40
  | .sealMsg => 0x41
  | .openMsg => 0x42
  | .derive .. => 0x43
  | .auth .. => 0x44

/-- The `mask` column of the opcode table (30_encoding R95). -/
def Instr.rowMask : Instr → Word
  | .fadd .. => 0xFFFFFFFFFFF888FF
  | .fdbl .. => 0xFFFFFFFFFFFF88FF
  | .fmul .. => 0xFFFFFFFFFFFF88FF
  | .ghupd .. => 0xFFFFFFFFFFFFF8FF
  | .ctrx .. => 0xFFFFFFFFFFFFF8FF
  | .cenc .. => 0xFFFFFFFFFFFF88FF
  | .cinc .. => 0xFFFFFFFFFFFF88FF
  | .initCtx => 0xFFFFFFFFFFFFFFFF
  | .sealMsg => 0xFFFFFFFFFFFFFFFF
  | .openMsg => 0xFFFFFFFFFFFFFFFF
  | .derive .. => 0xFFFFFFFFFFFFF8FF
  | .auth .. => 0xFFFFFFFFFFFF88FF

/-- The command word that stands for the low `nbits` bits of `w`, every bit above them 0 (a command is one 64-bit word,
30_encoding R90). -/
def tableWord (nbits w : Nat) : Word := BitVec.ofNat 64 (w % 2 ^ nbits)

/-- What the decoder reads from a row of the opcode table. -/
def decodeTableWord (nbits w : Nat) : Option Instr :=
  match decode (tableWord nbits w) with
  | .ok i => some i
  | .error _ => none

end Sys2Proof
end

