-- ==== Sys2Proof/Machine/Regions.lean ====
section
/-! DEFINITION. Which fatal error a command ends in (60_exceptions R248) and which regions it reads and writes (20_memory R70). -/

namespace Sys2Proof.Machine

/-- The fatal error a command ends in, if it does (60_exceptions R241, R248). It looks at the command, the context's sizes and
the operand registers only (60_exceptions R242). -/
def fatalCause (i : Instr) (s : State) : Option Cause :=
  match i with
  | .fadd vd va vb => firstFailed (testsFadd vd va vb)
  | .fdbl vd va => firstFailed (testsFdbl vd va)
  | .fmul vd va => firstFailed (testsFmul vd va s)
  | .ghupd vd => firstFailed (testsGhupd vd s)
  | .ctrx vd => firstFailed (testsCtrx vd s)
  | .cenc vd va => firstFailed (testsCenc vd va s)
  | .cinc vd va => firstFailed (testsCinc vd va s)
  | .initCtx => none
  | .sealMsg => firstFailed (testsSeal s)
  | .openMsg =>
    match firstFailed (testsOpenBefore s) with
    | some c => some c
    | none => if openLengthBad s then none else firstFailed (testsOpenAfter s)
  | .derive vd => firstFailed (testsDerive vd s)
  | .auth vd va => firstFailed (testsAuth vd va s)

/-- The regions a command that does not end in a fatal error reads (20_memory R70). -/
def regionsRead (i : Instr) (s : State) : List Region :=
  match i with
  | .fadd _ _ _ => []
  | .fdbl _ _ => []
  | .fmul _ _ => []
  | .ghupd _ => [s.srcRegion]
  | .ctrx _ => [s.srcRegion]
  | .cenc _ _ => []
  | .cinc _ _ => []
  | .initCtx => []
  | .sealMsg => [s.nonceRegion, s.srcRegion, s.aadRegion]
  | .openMsg => if openLengthBad s then [] else [s.nonceRegion, s.srcRegion, s.aadRegion]
  | .derive _ => [s.nonceRegion]
  | .auth _ _ => [s.srcRegion, s.aadRegion]

/-- The regions a command that does not end in a fatal error writes (20_memory R70). -/
def regionsWritten (i : Instr) (s : State) : List Region :=
  match i with
  | .fadd _ _ _ => []
  | .fdbl _ _ => []
  | .fmul _ _ => []
  | .ghupd _ => []
  | .ctrx _ => [ctrxOut s]
  | .cenc _ _ => []
  | .cinc _ _ => []
  | .initCtx => []
  | .sealMsg => [sealOut s]
  | .openMsg => if openLengthBad s then [] else [openOut s]
  | .derive _ => []
  | .auth _ _ => []

/-- The regions read by the command a word stands for; none for an illegal word or a command that ends in a fatal error. -/
def wordReads (d : Except Illegal Instr) (s : State) : List Region :=
  match d with
  | .ok i => if (fatalCause i s).isSome then [] else regionsRead i s
  | .error _ => []

/-- The regions written by the command a word stands for. -/
def wordWrites (d : Except Illegal Instr) (s : State) : List Region :=
  match d with
  | .ok i => if (fatalCause i s).isSome then [] else regionsWritten i s
  | .error _ => []

end Sys2Proof.Machine
end

