-- ==== Sys2Proof/Machine/HostPort.lean ====
section
/-! DEFINITION. The host's side of the core: the register file (10_state R23, R41 to R43), memory accesses by the host
(30_encoding R97, 70_reset R290), what the host sees. -/

namespace Sys2Proof.Machine

/-- The host registers by name (10_state R23). -/
inductive HostReg where
  | cmd
  | status
  | ctrl
  | cfgNonceSize
  | cfgTagSize
  | nonceSize
  | overhead
  | dstAddr
  | srcAddr
  | srcLen
  | aadAddr
  | aadLen
  | nonceAddr
  | nonceLen
  | outLen
  /-- `Vn_LO`, number 0x10 + 2n. -/
  | vLo (n : Fin 8)
  /-- `Vn_HI`, number 0x11 + 2n. -/
  | vHi (n : Fin 8)
  | reserved
  deriving DecidableEq, Repr

/-- The register map (10_state R23). -/
def hostReg (n : Nat) : HostReg :=
  if n = 0x00 then .cmd
  else if n = 0x01 then .status
  else if n = 0x02 then .ctrl
  else if n = 0x04 then .cfgNonceSize
  else if n = 0x05 then .cfgTagSize
  else if n = 0x06 then .nonceSize
  else if n = 0x07 then .overhead
  else if n = 0x08 then .dstAddr
  else if n = 0x09 then .srcAddr
  else if n = 0x0A then .srcLen
  else if n = 0x0B then .aadAddr
  else if n = 0x0C then .aadLen
  else if n = 0x0D then .nonceAddr
  else if n = 0x0E then .nonceLen
  else if n = 0x0F then .outLen
  else if h : 0x10 ≤ n ∧ n < 0x20 then
    if n % 2 = 0 then .vLo ⟨(n - 0x10) / 2, by omega⟩ else .vHi ⟨(n - 0x10) / 2, by omega⟩
  else .reserved

/-- What a host read returns, in every phase (10_state R41). While BUSY these are the values from before the command, since the
command step is atomic. -/
def State.readReg (s : State) (r : HostReg) : Word :=
  match r with
  | .cmd => 0
  | .status => statusWord s
  | .ctrl => 0
  | .cfgNonceSize => s.cfgNonceSize
  | .cfgTagSize => s.cfgTagSize
  | .nonceSize => s.ctx.nonceSize
  | .overhead => s.ctx.tagSize
  | .dstAddr => s.dstAddr
  | .srcAddr => s.srcAddr
  | .srcLen => s.srcLen
  | .aadAddr => s.aadAddr
  | .aadLen => s.aadLen
  | .nonceAddr => s.nonceAddr
  | .nonceLen => s.nonceLen
  | .outLen => s.outLen
  | .vLo n => s.vregs[n.val].low
  | .vHi n => s.vregs[n.val].high
  | .reserved => 0

/-- A write to an operand register or half a vector register; a write to any other register is dropped (10_state R42 (d), (e)). -/
def State.writeOperand (s : State) (r : HostReg) (v : Word) : State :=
  match r with
  | .cmd => s
  | .status => s
  | .ctrl => s
  | .cfgNonceSize => { s with cfgNonceSize := v }
  | .cfgTagSize => { s with cfgTagSize := v }
  | .nonceSize => s
  | .overhead => s
  | .dstAddr => { s with dstAddr := v }
  | .srcAddr => { s with srcAddr := v }
  | .srcLen => { s with srcLen := v }
  | .aadAddr => { s with aadAddr := v }
  | .aadLen => { s with aadLen := v }
  | .nonceAddr => { s with nonceAddr := v }
  | .nonceLen => { s with nonceLen := v }
  | .outLen => s
  | .vLo n => { s with vregs := s.vregs.set n.val { low := v, high := s.vregs[n.val].high } }
  | .vHi n => { s with vregs := s.vregs.set n.val { low := s.vregs[n.val].low, high := v } }
  | .reserved => s

/-- Command acceptance: `CMDL <- v`, `BUSY <- 1`, the word not examined (10_state R43). The regions the command will use are
noted for the host's duty (70_reset R290; log 5), beside those of earlier commands whose completion the host has not yet seen:
accepting one more command, whatever its word, ends nobody's window. -/
def State.acceptCommand (s : State) (v : Word) : State :=
  { s with
    cmdl := v
    busy := true
    claimedReads := wordReads (decode v) s ++ s.claimedReads
    claimedWrites := wordWrites (decode v) s ++ s.claimedWrites }

/-- A host register write, in the order of 10_state R42: CTRL in every phase, everything else dropped while BUSY, CMD accepted
in IDLE only, operand and vector registers taken. -/
def State.writeReg (s : State) (r : HostReg) (v : Word) : State :=
  if r = .ctrl then (if v.getLsbD 0 then s.coreReset else s)
  else if phase s = .busy then s
  else if r = .cmd then (if phase s = .idle then s.acceptCommand v else s)
  else s.writeOperand r v

/-- The host has seen something. -/
def State.observe (s : State) (o : Observation) : State := { s with seen := o :: s.seen }

/-- No region is claimed any more. -/
def State.release (s : State) : State := { s with claimedReads := [], claimedWrites := [] }

/-- A host register read: nothing of the core changes (10_state R41). A read of STATUS with BUSY = 0 shows
every command accepted so far completed, and ends the host's duty to leave their buffers alone (70_reset R290). -/
def State.hostRead (s : State) (n : Nat) : State :=
  let v := s.readReg (hostReg n)
  let s := if hostReg n = .status ∧ v.getLsbD 0 = false then s.release else s
  s.observe (.reg n v)

/-! Host accesses to memory. Every address from 0 to 2^64 - 1 holds a byte that can be read and written, and memory never refuses
(20_memory R60, R72). DESIGN CHOICE (log 12): the spec does not say what a host access does past 2^64; its bytes below go as
everywhere, and for each byte past the top what it reads as, or where it lands, is a free value. -/

/-- How many bytes of a region lie in the address space. -/
def Region.inside (r : Region) : Nat := min (r.addr + r.len) addressSpace - r.addr

/-- How many bytes of a region lie past the top of the address space. -/
def Region.beyond (r : Region) : Nat := r.len - r.inside

/-- That many free values are used up. -/
def State.spend (s : State) (n : Nat) : State := { s with free := s.free + n }

/-- What the host reads from a region: memory's bytes, then a free value for each byte past the top. -/
def State.hostBytes (s : State) (r : Region) : Bytes :=
  Memory.readN s.mem r.addr r.inside ++ (List.range r.beyond).map (fun i => Config.freeByte (s.free + i))

/-- Where bytes written past the top land, the first with the free value `k`. -/
def landings (k : Nat) : Bytes → List Host.Cell
  | [] => []
  | v :: vs =>
    match Config.freePlace k with
    | some a => (a.toNat, v) :: landings (k + 1) vs
    | none => landings (k + 1) vs

/-- Bytes written one by one, each at its own address. -/
def Memory.scatter (m : Memory) : List Host.Cell → Memory
  | [] => m
  | (a, v) :: cs => Memory.scatter (Memory.write m a v) cs

/-- A host write to memory. -/
def hostWriteMem (addr : Word) (bytes : Bytes) (s : State) : Out :=
  let r : Region := { addr := addr.toNat, len := bytes.length }
  let fallen := landings s.free (bytes.drop r.inside)
  let claimed := s.claimedReads ++ s.claimedWrites
  if claimed.any (anyOverlap r) || claimed.any (fun c => fallen.any (fun p => c.has p.1)) then .refused .hostTouchedBuffer
  else
    .next (({ s with mem := (Memory.writeN s.mem addr.toNat (bytes.take r.inside)).scatter fallen } : State).spend r.beyond)

/-- A host read of memory. -/
def hostReadMem (addr : Word) (len : Nat) (s : State) : Out :=
  let r : Region := { addr := addr.toNat, len := len }
  if s.claimedWrites.any (anyOverlap r) then .refused .hostTouchedBuffer
  else .next ((s.observe (.mem addr (s.hostBytes r))).spend r.beyond)

end Sys2Proof.Machine
end

