-- ==== Sys2Proof/Machine/RandomNonce.lean ====
section
/-! DEFINITION. The host pseudo-operations RSEAL and ROPEN (45_random_nonce), each expanded into host events around one
command. -/

namespace Sys2Proof.Machine

/-- The nonce size and the tag size of the wrapper's one context (45_random_nonce R230). -/
def wrapperInnerNonceSize : Nat := 12
def wrapperInnerTagSize : Nat := 16

/-- The wrapper's accessor `NonceSize()`: no nonce is the caller's to supply (45_random_nonce R230). -/
def wrapperNonceSize : Nat := 0

/-- The wrapper's accessor `Overhead()`: the nonce prefix and the tag (45_random_nonce R230). -/
def wrapperOverhead : Nat := wrapperInnerNonceSize + wrapperInnerTagSize

/-- The context RSEAL and ROPEN require: one that INIT built with nonce size 12 and tag size 16 (45_random_nonce R230). -/
def State.wrapperReady (s : State) : Bool :=
  s.ctx.valid && decide (s.ctx.nonceSize.toNat = wrapperInnerNonceSize) && decide (s.ctx.tagSize.toNat = wrapperInnerTagSize)

/-- A command line of a host script: write the word to CMD, let the core run, read STATUS (30_encoding R97). -/
def commandLine (i : Instr) : List HostEvent := [.writeReg 0x00 (encode i), .coreTurn, .readReg 0x01]

/-- `Rand(k)`: the data first, the opaque parameter for the rest (45_random_nonce R231; log 9). -/
def State.draw (s : State) : Bytes :=
  bytes12 (match s.randoms[s.draws]? with
    | some v => v
    | none => Config.rand s.draws)

/-- The writes of the operand registers and the command of RSEAL and ROPEN. -/
def wrapperCommand (nonce src len aad alen dst : Word) (i : Instr) : List HostEvent :=
  [.writeReg 0x0D nonce, .writeReg 0x0E 12, .writeReg 0x09 src, .writeReg 0x0A len, .writeReg 0x0B aad, .writeReg 0x0C alen,
   .writeReg 0x08 dst] ++ commandLine i

/-- `a + 12`, as the host hands it to a 64-bit register. DESIGN CHOICE (log 12): where the sum does not fit, which 45_random_nonce
R232 and R234 do not speak of, that one value is a free value. -/
def State.plusNonce (s : State) (a : Word) : Word :=
  if a.toNat + wrapperInnerNonceSize < addressSpace then a + BitVec.ofNat 64 wrapperInnerNonceSize else Config.freeWord s.free

/-- The expansion of RSEAL once its own tests have passed (45_random_nonce R232): in place, the plaintext is copied forward by
12; then the nonce prefix, the registers, SEAL. -/
def rsealEvents (s : State) (dst src len aad alen : Word) : List HostEvent :=
  let nonce : List HostEvent := [.writeMem dst s.draw]
  let out := s.plusNonce dst
  if src = dst ∧ len ≠ 0 then
    [.writeMem out (s.hostBytes { addr := dst.toNat, len := len.toNat })] ++ nonce ++
      wrapperCommand dst out len aad alen out .sealMsg
  else nonce ++ wrapperCommand dst src len aad alen out .sealMsg

/-- The free values one RSEAL uses: one for the sum, and one for each byte past the top that is copied forward. -/
def rsealFree (src len : Word) : Nat := 1 + Region.beyond { addr := src.toNat, len := len.toNat }

/-- RSEAL's overlap tests on the wrapper's whole output region (45_random_nonce R232). DESIGN CHOICE (log 21): for regions that run
past 2^64, where 20_memory R66 defines no overlap, its formulas are taken in the integers, so such a call may abort here instead of
ending in the inner RANGE. -/
def rsealOverlaps (dst src len aad alen : Word) : Bool :=
  let out : Region := { addr := dst.toNat, len := wrapperInnerNonceSize + len.toNat + wrapperInnerTagSize }
  inexactOverlap out { addr := src.toNat, len := len.toNat } || anyOverlap out { addr := aad.toNat, len := alen.toNat }

/-- `RSEAL dst, nlen, src, len, aad, alen` (45_random_nonce R232). DESIGN CHOICE (log 20): once its own tests have passed, and
without the context R230 requires, it is refused before it draws or writes anything. -/
def hostRseal (dst nlen src len aad alen : Word) (s : State) : Out :=
  if nlen.toNat ≠ wrapperNonceSize ∨ rsealOverlaps dst src len aad alen = true then .next (s.observe .hostAbort)
  else if s.wrapperReady = false then .refused .wrapperContext
  else if (src = dst ∧ len ≠ 0) ∧ s.claimedWrites.any (anyOverlap { addr := dst.toNat, len := len.toNat }) = true then
    .refused .hostTouchedBuffer
  else
    .next (({ s with script := rsealEvents s dst src len aad alen ++ s.script, draws := s.draws + 1 } : State).spend
      (rsealFree src len))

/-- `ROPEN dst, nlen, src, len, aad, alen` (45_random_nonce R234). DESIGN CHOICE (log 20): once its own tests have passed, and
without the context R230 requires, it is refused. DESIGN CHOICE (log 19): with `dst = src` and a length of 29 to 40 the inner regions
`(src, len - 28)` and `(src + 12, len - 12)` share no byte, so by 20_memory R66 and R68, and against R234's own remark that this ends
in OVERLAP, the inner OPEN accepts and writes the plaintext over the nonce prefix. -/
def hostRopen (dst nlen src len aad alen : Word) (s : State) : Out :=
  if nlen.toNat ≠ wrapperNonceSize then .next (s.observe .hostAbort)
  else if len.toNat < wrapperOverhead then .next (s.observe .authenticationFailed)
  else if s.wrapperReady = false then .refused .wrapperContext
  else
    .next (({ s with
      script := wrapperCommand src (s.plusNonce src) (len - 12) aad alen dst .openMsg ++ s.script } : State).spend 1)

end Sys2Proof.Machine
end

