-- ==== Sys2Proof/Machine/CommandStep.lean ====
section
/-! DEFINITION. The command step (10_state R44) and one event of the host's script. -/

namespace Sys2Proof.Machine

/-- The command step: decode the latched word, then the command; an illegal word is the fatal error ILLEGAL_CMD
(10_state R44, 30_encoding R100). -/
def commandStep (s : State) : Out :=
  match decode s.cmdl with
  | .ok i => exec i s
  | .error _ => .next (s.raiseFatal .illegalCmd)

/-- The core's turn: in phase BUSY it has exactly one enabled step, in the others none (10_state R44, R40). -/
def coreTurn (s : State) : Out := if phase s = .busy then commandStep s else .next s

/-- One event of the script, already taken off it. -/
def hostStep (e : HostEvent) (s : State) : Out :=
  match e with
  | .writeReg n v => .next (s.writeReg (hostReg n) v)
  | .readReg n => .next (s.hostRead n)
  | .writeMem addr bytes => hostWriteMem addr bytes s
  | .readMem addr len => hostReadMem addr len s
  | .resetInput => .next s.coreReset
  | .coreTurn => coreTurn s
  | .rseal dst nlen src len aad alen => hostRseal dst nlen src len aad alen s
  | .ropen dst nlen src len aad alen => hostRopen dst nlen src len aad alen s

end Sys2Proof.Machine
end

