-- ==== Sys2Proof/Machine/Step.lean ====
section
/-! DEFINITION. One step of the machine: the next event of the host's script, or, when there is none, the core's turn. -/

namespace Sys2Proof.Machine

/-- One step (00_scope R5, R6; 20_memory R74: one total order of host accesses and command steps, the order of the script).
With the script empty the core takes its step if it has one, so a command is run in the end (70_reset R298; log 4). -/
def step (s : State) : Host.Outcome State Fault Refusal :=
  match s.script with
  | [] => coreTurn s
  | e :: rest => hostStep e { s with script := rest }

/-- The state with a command word accepted and the core next to move: what an accepted write to CMD leaves (10_state R43), with
no host event before the command step (log 3). -/
def State.withFetchWord (s : State) (nbits w : Nat) : State :=
  { s with cmdl := tableWord nbits w, busy := true, fault := false, script := [] }

end Sys2Proof.Machine
end

