-- ==== Sys2Proof/Reference.lean ====
section
/-! DEFINITION. What the statements compare the machine with: the field GF(2^128) as polynomials, the words of the encoding
table as shifts, the order of the tests and the request counts written out in numbers. Nothing of the machine uses this file. -/

namespace Sys2Proof.Reference

open Sys2Proof.Machine

/-- The coefficient of x^d of the polynomial a field element stands for (40_field R120). -/
def coeff (x : FieldElement) (d : Nat) : Bool := if d < 64 then x.low.getLsbD (63 - d) else x.high.getLsbD (127 - d)

/-- A sum of powers of x over GF(2), from its coefficients below degree `n`. -/
noncomputable def polyOf (n : Nat) (c : Nat → Bool) : Polynomial (ZMod 2) :=
  ∑ d ∈ Finset.range n, if c d then Polynomial.X ^ d else 0

/-- The polynomial a field element stands for (40_field R120). -/
noncomputable def toPoly (x : FieldElement) : Polynomial (ZMod 2) := polyOf 128 (coeff x)

/-- The polynomial of the integer i below 16: the coefficient of x^k is bit k of i (41_table_mul R142). -/
noncomputable def nibblePoly (i : BitVec 4) : Polynomial (ZMod 2) := polyOf 4 i.getLsbD

/-- The reduction polynomial `1 + x + x^2 + x^7 + x^128` (40_field R120). -/
noncomputable def modulus : Polynomial (ZMod 2) :=
  1 + Polynomial.X + Polynomial.X ^ 2 + Polynomial.X ^ 7 + Polynomial.X ^ 128

/-- A field element stands for a polynomial modulo the reduction polynomial. -/
def StandsFor (x : FieldElement) (p : Polynomial (ZMod 2)) : Prop := modulus ∣ toPoly x - p

/-- `b1·H^m + b2·H^(m-1) + ... + bm·H` (42_ghash R163 (3)). -/
noncomputable def ghashPoly (h : Polynomial (ZMod 2)) : List Bytes → Polynomial (ZMod 2)
  | [] => 0
  | b :: bs => toPoly (fromBytes b) * h ^ (bs.length + 1) + ghashPoly h bs

/-- A command word as the command rules write it: `op | vd << 8 | va << 12 | vb << 16` (40_field R122 and its kin). -/
def cmdWord (op : Word) (vd va vb : RegField) : Word :=
  op ||| (vd.setWidth 64 <<< 8) ||| (va.setWidth 64 <<< 12) ||| (vb.setWidth 64 <<< 16)

/-- The regions (a, n) and (b, m) share an address (20_memory R66). -/
def AnyOverlap (a n b m : Nat) : Prop := 0 < n ∧ 0 < m ∧ a < b + m ∧ b < a + n

/-- They share an address and start at different ones (20_memory R66). -/
def InexactOverlap (a n b m : Nat) : Prop := AnyOverlap a n b m ∧ a ≠ b

/-- CAP (00_scope R7). -/
def CAP : Nat := 68719476704

/-- The number of 16-byte chunks of `n` bytes, the last one perhaps partial. -/
def ceil16 (n : Nat) : Nat := (n + 15) / 16

/-- The state a fatal error leaves: FAULT, FCAUSE and BUSY change, nothing else (60_exceptions R243). -/
def fatal (s : State) (code : Byte) : State := { s with fault := true, fcause := code, busy := false }

/-- The state a reset leaves: every piece of 10_state R20 but memory at its value of the table of R45, memory and the cipher
untouched; every field of the model's own stays, which is the model's choice (10_state R29, 70_reset R280; log 6). -/
def afterReset (s : State) : State :=
  { State.start s.mem with
    cipher := s.cipher
    requests := s.requests
    script := s.script
    seen := s.seen
    claimedReads := s.claimedReads
    claimedWrites := s.claimedWrites
    randoms := s.randoms
    draws := s.draws
    free := s.free }

/-- `t` is the core of `s` after a reset: every piece of 10_state R20 but memory at its value of the table of R45, memory and the
cipher as in `s`. Nothing is said of the model's own fields. -/
def ResetsTheCore (s t : State) : Prop :=
  t =
    { State.start s.mem with
      cipher := s.cipher
      requests := t.requests
      script := t.script
      seen := t.seen
      claimedReads := t.claimedReads
      claimedWrites := t.claimedWrites
      randoms := t.randoms
      draws := t.draws
      free := t.free }

/-- A register field names no register. -/
def Above7 (r : RegField) : Prop := 7 < r.toNat

/-- NONCE_LEN differs from the context's nonce size (60_exceptions R247). -/
def WrongNonce (s : State) : Prop := s.nonceLen.toNat ≠ s.ctx.nonceSize.toNat

/-- A region runs past the top of the address space (20_memory R65). -/
def PastTop (a : Word) (n : Nat) : Prop := 2 ^ 64 < a.toNat + n

/-- SEAL's overlap test (20_memory R67). -/
def SealOverlap (s : State) : Prop :=
  InexactOverlap s.dstAddr.toNat (s.srcLen.toNat + s.ctx.tagSize.toNat) s.srcAddr.toNat s.srcLen.toNat ∨
    AnyOverlap s.dstAddr.toNat (s.srcLen.toNat + s.ctx.tagSize.toNat) s.aadAddr.toNat s.aadLen.toNat

/-- OPEN's overlap test, for a body of `SRC_LEN - ts` bytes (20_memory R68). -/
def OpenOverlap (s : State) : Prop :=
  InexactOverlap s.dstAddr.toNat (s.srcLen.toNat - s.ctx.tagSize.toNat) s.srcAddr.toNat s.srcLen.toNat ∨
    AnyOverlap s.dstAddr.toNat (s.srcLen.toNat - s.ctx.tagSize.toNat) s.aadAddr.toNat s.aadLen.toNat

/-- OPEN's two length tests (44_gcm R212). -/
def OpenLengthBad (s : State) : Prop :=
  s.srcLen.toNat < s.ctx.tagSize.toNat ∨ CAP + s.ctx.tagSize.toNat < s.srcLen.toNat

/-- The tests a command makes, in the order of 60_exceptions R248, each with its condition and its FCAUSE code. OPEN's length
tests, which are no fatal errors, end its list where they hold. -/
def tests (i : Instr) (s : State) : List (Prop × Byte) :=
  let notReady : Prop × Byte := (s.ctx.valid = false, 0x02)
  let nonceLen : Prop × Byte := (WrongNonce s, 0x03)
  let msg : Prop × Byte := (CAP < s.srcLen.toNat, 0x04)
  let aad : Prop × Byte := (2 ^ 61 ≤ s.aadLen.toNat, 0x07)
  let noncePast := PastTop s.nonceAddr s.nonceLen.toNat
  let srcPast := PastTop s.srcAddr s.srcLen.toNat
  let aadPast := PastTop s.aadAddr s.aadLen.toNat
  match i with
  | .fadd vd va vb => [(Above7 vd ∨ Above7 va ∨ Above7 vb, 0x01)]
  | .fdbl vd va => [(Above7 vd ∨ Above7 va, 0x01)]
  | .fmul vd va => [(Above7 vd ∨ Above7 va, 0x01), notReady]
  | .cenc vd va => [(Above7 vd ∨ Above7 va, 0x01), notReady]
  | .cinc vd va => [(Above7 vd ∨ Above7 va, 0x01), notReady]
  | .ghupd vd => [(Above7 vd, 0x01), notReady, (srcPast, 0x06)]
  | .ctrx vd =>
    [(Above7 vd, 0x01), notReady, msg, (srcPast ∨ PastTop s.dstAddr s.srcLen.toNat, 0x06),
     (InexactOverlap s.dstAddr.toNat s.srcLen.toNat s.srcAddr.toNat s.srcLen.toNat, 0x05)]
  | .derive vd => [(Above7 vd, 0x01), notReady, nonceLen, (noncePast, 0x06)]
  | .auth vd va => [(Above7 vd ∨ Above7 va, 0x01), notReady, msg, aad, (srcPast ∨ aadPast, 0x06)]
  | .sealMsg =>
    [notReady, nonceLen, msg, aad,
     (noncePast ∨ srcPast ∨ aadPast ∨ PastTop s.dstAddr (s.srcLen.toNat + s.ctx.tagSize.toNat), 0x06),
     (SealOverlap s, 0x05)]
  | .openMsg =>
    [notReady, nonceLen, (¬OpenLengthBad s ∧ 2 ^ 61 ≤ s.aadLen.toNat, 0x07),
     (¬OpenLengthBad s ∧ (noncePast ∨ srcPast ∨ aadPast ∨ PastTop s.dstAddr (s.srcLen.toNat - s.ctx.tagSize.toNat)), 0x06),
     (¬OpenLengthBad s ∧ OpenOverlap s, 0x05)]
  | .initCtx => []

/-- The first test that holds is the one with this code. -/
def FirstIs (code : Byte) : List (Prop × Byte) → Prop
  | [] => False
  | (p, c) :: rest => (p ∧ c = code) ∨ (¬p ∧ FirstIs code rest)

/-- No test holds. -/
def NoneHolds (l : List (Prop × Byte)) : Prop := ∀ p ∈ l, ¬p.1

/-- The vector register a command writes, if it writes one (10_state R46). -/
def destination : Instr → Option RegField
  | .fadd vd _ _ => some vd
  | .fdbl vd _ => some vd
  | .fmul vd _ => some vd
  | .ghupd vd => some vd
  | .ctrx vd => some vd
  | .cenc vd _ => some vd
  | .cinc vd _ => some vd
  | .derive vd => some vd
  | .auth vd _ => some vd
  | .initCtx => none
  | .sealMsg => none
  | .openMsg => none

end Sys2Proof.Reference
end

