-- ==== Sys2Proof/Safety.lean ====
section
/-! DEFINITION. What counts as a good state and what a command may change, in the terms the statements use. -/

namespace Sys2Proof.Machine

/-- The core has not gone wrong: no command has ended in a fatal error (93_implementation_defined U2). -/
def State.Safe (s : State) : Prop := s.fault = false

/-- The context is cleared, or it is the one INIT builds from legal sizes and the cipher's hash subkey (10_state R33,
44_gcm R192). -/
def Context.Legal (c : Context) (e : Cipher) : Prop :=
  c = Context.clear ∨
    (c.valid = true ∧ e.blockSize = 16 ∧ 1 ≤ c.nonceSize.toNat ∧ c.nonceSize.toNat < 2 ^ 61 ∧
      12 ≤ c.tagSize.toNat ∧ c.tagSize.toNat ≤ 16 ∧ c.table = buildTable (hashSubkey e))

/-- The invariant of every step. -/
structure State.Inv (s : State) : Prop where
  /-- BUSY = 1 with FAULT = 1 does not occur (10_state R40). -/
  phases : ¬(s.busy = true ∧ s.fault = true)
  /-- FCAUSE is 0 while FAULT is 0, and one of 1 to 7 after a fatal error (10_state R25, R28). -/
  causes : (s.fault = false ∧ s.fcause = 0) ∨ (s.fault = true ∧ 1 ≤ s.fcause.toNat ∧ s.fcause.toNat ≤ 7)
  /-- RESULT is one of the codes 0 to 4 (10_state R27). -/
  results : s.result.toNat ≤ 4
  /-- The context is legal (10_state R33). -/
  context : s.ctx.Legal s.cipher
  /-- Memory is in canonical form (log 1). -/
  memory : Memory.wf s.mem = true

/-- What a command that writes the vector register `vd` only, and makes the requests `reqs`, leaves as it was: everything but
that register, the record of requests, BUSY and RESULT; every byte of memory. -/
def VectorFrame (s t : State) (vd : RegField) (reqs : List CipherRequest) : Prop :=
  t = { s with vregs := t.vregs, requests := s.requests ++ reqs, busy := false, result := 0x00 } ∧
    (∀ r, RegField.ok r = true → r ≠ vd → t.getV r = s.getV r) ∧
    ∀ a, Memory.read t.mem a = Memory.read s.mem a

/-- Every byte of memory outside the `n` bytes from `base` on reads as before. -/
def MemoryFrame (s t : State) (base n : Nat) : Prop :=
  ∀ a, (a < base ∨ base + n ≤ a) → Memory.read t.mem a = Memory.read s.mem a

/-- The byte string of the `n` bytes at an address (20_memory R61). -/
def State.bytesAt (s : State) (addr : Word) (n : Nat) : Bytes := Memory.readN s.mem addr.toNat n

end Sys2Proof.Machine
end

