-- ==== Sys2Proof/Certificates/Slice0/Obligations.lean ====
section
/-! DEFINITION. The statements for the provers. Each docstring names the rule of spec/ it formalises. -/

section

open Sys2Proof Sys2Proof.Machine Sys2Proof.Reference

/-! ### Encoding -/

/-- 30_encoding R95: words of the opcode table and of the rules' examples decode to the commands they stand for. -/
def Obligations.ExampleWordsDecode : Prop :=
  decode 0x0000000000010210 = .ok (.fadd 2 0 1) ∧ decode 0x0000000000000311 = .ok (.fdbl 3 0) ∧
  decode 0x0000000000001112 = .ok (.fmul 1 1) ∧ decode 0x0000000000000420 = .ok (.ghupd 4) ∧
  decode 0x0000000000000730 = .ok (.ctrx 7) ∧ decode 0x0000000000001231 = .ok (.cenc 2 1) ∧
  decode 0x0000000000000032 = .ok (.cinc 0 0) ∧ decode 0x0000000000000040 = .ok .initCtx ∧
  decode 0x0000000000000041 = .ok .sealMsg ∧ decode 0x0000000000000042 = .ok .openMsg ∧
  decode 0x0000000000000543 = .ok (.derive 5) ∧ decode 0x0000000000001644 = .ok (.auth 6 1)

/-- 30_encoding R91, R96: decoding the word of a well-formed command gives the command back, every register number included. -/
def Obligations.DecodeOfEncodeIsTheCommand : Prop :=
  ∀ i : Instr, i.wellFormed = true → decode (encode i) = .ok i

/-- 30_encoding R96: a legal word stands for one well-formed command, and is that command's only word. -/
def Obligations.EncodeOfDecodeIsTheWord : Prop :=
  ∀ (w : Word) (i : Instr), decode w = .ok i → i.wellFormed = true ∧ encode i = w

/-- 30_encoding R95: a word is the command of a row exactly when `w & mask = match`, and no word matches two rows. -/
def Obligations.WordIsOfARowExactlyWhenItMatches : Prop :=
  (∀ (w : Word) (j : Instr),
    w &&& j.rowMask = j.rowMatch ↔ ∃ i, decode w = .ok i ∧ i.rowMatch = j.rowMatch ∧ i.rowMask = j.rowMask) ∧
  ∀ (w : Word) (i j : Instr), w &&& i.rowMask = i.rowMatch → w &&& j.rowMask = j.rowMatch → i.rowMatch = j.rowMatch

/-! ### Reset, the step, the command step -/

/-- 10_state R45: after reset every piece of state has the value of the rule's table; memory and the cipher are not touched; at
the first reset memory is `Mem0`. -/
def Obligations.ResetGivesTheTableOfValues : Prop :=
  (∀ s : State,
    let t := s.coreReset
    t.vregs = Vector.replicate 8 FieldElement.zero ∧ t.cfgNonceSize = 0 ∧ t.cfgTagSize = 0 ∧ t.dstAddr = 0 ∧ t.srcAddr = 0 ∧
    t.srcLen = 0 ∧ t.aadAddr = 0 ∧ t.aadLen = 0 ∧ t.nonceAddr = 0 ∧ t.nonceLen = 0 ∧ t.outLen = 0 ∧
    t.ctx.valid = false ∧ t.ctx.nonceSize = 0 ∧ t.ctx.tagSize = 0 ∧
    t.ctx.table = Vector.replicate 16 FieldElement.zero ∧ t.busy = false ∧ t.fault = false ∧ t.result = 0x00 ∧
    t.fcause = 0x00 ∧ t.cmdl = 0 ∧ phase t = .idle ∧ t.mem = s.mem ∧ t.cipher = s.cipher) ∧
  ∀ mem0 : Memory, (State.start mem0).coreReset = State.start mem0 ∧ (State.start mem0).mem = mem0

/-- 10_state R29, 70_reset R280: the reset input, and a write to CTRL with bit 0 set, put every piece of state but memory at its
reset value, in every phase; a write to CTRL with bit 0 clear does nothing; CTRL reads as 0. (That every field of the model's own,
the claimed regions of R290 among them, stays as it is, is the model's choice, log 6.) -/
def Obligations.ResetInputAndSoftResetAreOne : Prop :=
  ∀ (s : State) (v : Word) (rest : List HostEvent),
    let s' : State := { s with script := rest }
    step { s with script := .resetInput :: rest } = .next (afterReset s') ∧
    (v.getLsbD 0 = true → step { s with script := .writeReg 0x02 v :: rest } = .next (afterReset s')) ∧
    (v.getLsbD 0 = false → step { s with script := .writeReg 0x02 v :: rest } = .next s') ∧
    s.readReg (hostReg 0x02) = 0

/-- 10_state R44: when the core is in phase BUSY and is next to move, one step is the command the latched word decodes to, at
that very state; an illegal word ends the step in the fatal error ILLEGAL_CMD. With the core's turn written at the head of the
script it is the same, the turn taken off first. -/
def Obligations.StepRunsTheDecodedCommand : Prop :=
  ∀ (s : State) (rest : List HostEvent), phase s = .busy →
    (∀ i, decode s.cmdl = .ok i →
      (s.script = [] → step s = exec i s) ∧
      step { s with script := .coreTurn :: rest } = exec i { s with script := rest }) ∧
    (∀ e, decode s.cmdl = .error e →
      (s.script = [] → step s = .next (fatal s 0x01)) ∧
      step { s with script := .coreTurn :: rest } = .next (fatal { s with script := rest } 0x01))

/-- 10_state R40, R44: outside phase BUSY the core takes no step of its own. (That the machine then stays as it is, and does not
stop, is the model's choice, log 4.) -/
def Obligations.CoreMovesOnlyWhenBusy : Prop :=
  ∀ (s : State) (rest : List HostEvent), phase s ≠ .busy →
    (s.script = [] → step s = .next s) ∧
    step { s with script := .coreTurn :: rest } = .next { s with script := rest }

/-- 30_encoding R100, 60_exceptions R244: a word with a bit of 63:20 set, an opcode that is none of the twelve, a register number
above 7, or an unused field that is not 0 is illegal; among them the word 0. -/
def Obligations.NamedIllegalWordsAreRefused : Prop :=
  (∀ w : Word, w.extractLsb' 20 44 ≠ 0 → ∃ e, decode w = .error e) ∧
  (∀ w : Word, (w.extractLsb' 0 8).toNat ∉ [0x10, 0x11, 0x12, 0x20, 0x30, 0x31, 0x32, 0x40, 0x41, 0x42, 0x43, 0x44] →
    ∃ e, decode w = .error e) ∧
  (∀ w : Word, (w.getLsbD 11 = true ∨ w.getLsbD 15 = true ∨ w.getLsbD 19 = true) → ∃ e, decode w = .error e) ∧
  (∀ (w : Word) (i : Instr), decode w = .ok i →
    (i.regs.length < 3 → w.extractLsb' 16 4 = 0) ∧ (i.regs.length < 2 → w.extractLsb' 12 4 = 0) ∧
    (i.regs.length < 1 → w.extractLsb' 8 4 = 0)) ∧
  ∃ e, decode 0 = .error e

/-! ### The field unit -/

/-- 40_field R122, R123: FADD, its word, its result and its frame; no context is needed and no request is made. -/
def Obligations.FaddAddsTheElements : Prop :=
  ∀ (vd va vb : RegField) (s : State), RegField.ok vd = true → RegField.ok va = true → RegField.ok vb = true →
    encode (.fadd vd va vb) = cmdWord 0x10 vd va vb ∧
    ∃ t, exec (.fadd vd va vb) s = .next t ∧
      t.getV vd = { low := (s.getV va).low ^^^ (s.getV vb).low, high := (s.getV va).high ^^^ (s.getV vb).high } ∧
      VectorFrame s t vd []

/-- 40_field R125: FDBL, its word, its result and its frame; no context is needed and no request is made. -/
def Obligations.FdblDoublesTheElement : Prop :=
  ∀ (vd va : RegField) (s : State), RegField.ok vd = true → RegField.ok va = true →
    encode (.fdbl vd va) = cmdWord 0x11 vd va 0 ∧
    ∃ t, exec (.fdbl vd va) s = .next t ∧ t.getV vd = double (s.getV va) ∧ VectorFrame s t vd []

/-- 41_table_mul R148: FMUL, its word; NOT_READY without a context; else its result and its frame. -/
def Obligations.FmulMultipliesByTheSubkey : Prop :=
  ∀ (vd va : RegField) (s : State), RegField.ok vd = true → RegField.ok va = true →
    encode (.fmul vd va) = cmdWord 0x12 vd va 0 ∧
    (s.ctx.valid = false → exec (.fmul vd va) s = .next (fatal s 0x02)) ∧
    (s.ctx.valid = true →
      ∃ t, exec (.fmul vd va) s = .next t ∧ t.getV vd = mul (s.getV va) s.ctx.table ∧ VectorFrame s t vd [])

/-- 40_field R127: Double on the two words: the low bit of `low` enters `high` at its top, and the bit that leaves `high` is
folded back as 0xe100000000000000. -/
def Obligations.DoubleShiftsTheTwoWords : Prop :=
  ∀ x : FieldElement,
    (double x).high = (x.high >>> 1) ||| (x.low <<< 63) ∧
    (x.high.getLsbD 0 = false → (double x).low = x.low >>> 1) ∧
    (x.high.getLsbD 0 = true → (double x).low = (x.low >>> 1) ^^^ 0xe100000000000000)

/-- 40_field R128: Double is multiplication by x modulo the reduction polynomial, and k applications of it are multiplication
by x^k; coefficient by coefficient, degree d goes to degree d + 1 and degree 127 is replaced by 1 + x + x^2 + x^7. -/
def Obligations.DoubleIsMultiplicationByX : Prop :=
  (∀ a : FieldElement, StandsFor (double a) (toPoly a * Polynomial.X)) ∧
  (∀ (a : FieldElement) (k : Nat), StandsFor (double^[k] a) (toPoly a * Polynomial.X ^ k)) ∧
  (∀ a : FieldElement, coeff (double a) 0 = coeff a 127) ∧
  ∀ (a : FieldElement) (d : Nat), d < 127 →
    coeff (double a) (d + 1) = (coeff a d ^^ (coeff a 127 && (d + 1 == 1 || d + 1 == 2 || d + 1 == 7)))

/-- 40_field R126: the arithmetic laws of Add and Double. -/
def Obligations.FieldLawsOfAddAndDouble : Prop :=
  (∀ a b, add a b = add b a) ∧ (∀ a b c, add (add a b) c = add a (add b c)) ∧
  (∀ a, add a FieldElement.zero = a) ∧ (∀ a, add a a = FieldElement.zero) ∧
  (∀ a b, double (add a b) = add (double a) (double b)) ∧ double FieldElement.zero = FieldElement.zero ∧
  Function.Bijective double

/-- 41_table_mul R141: ReverseBits, by its bits and by the table of its values; its own inverse. -/
def Obligations.ReverseBitsReversesTheNibble : Prop :=
  (∀ i : BitVec 4, (reverseBits i).getLsbD 0 = i.getLsbD 3 ∧ (reverseBits i).getLsbD 1 = i.getLsbD 2 ∧
    (reverseBits i).getLsbD 2 = i.getLsbD 1 ∧ (reverseBits i).getLsbD 3 = i.getLsbD 0 ∧ reverseBits (reverseBits i) = i) ∧
  (List.range 16).map (fun i => (reverseBits (BitVec.ofNat 4 i)).toNat) =
    [0, 8, 4, 12, 2, 10, 6, 14, 1, 9, 5, 13, 3, 11, 7, 15]

/-- 41_table_mul R144: each entry of the reduction table is the exclusive or of the contributions of its four bits, and
`RED[n] << 48` in `low` stands for what the nibble's terms x^124 to x^127 become under multiplication by x^4. -/
def Obligations.ReductionTableFoldsTheDroppedNibble : Prop :=
  (∀ n : BitVec 4, red n =
    (if n.getLsbD 3 then 0xe100 else 0) ^^^ (if n.getLsbD 2 then 0x7080 else 0) ^^^
      (if n.getLsbD 1 then 0x3840 else 0) ^^^ (if n.getLsbD 0 then 0x1c20 else 0)) ∧
  ∀ n : BitVec 4, StandsFor { low := (red n).setWidth 64 <<< 48, high := 0 }
    (toPoly { low := 0, high := n.setWidth 64 } * Polynomial.X ^ 4)

/-- 41_table_mul R142, R143: `table[ReverseBits(i)]` is the multiple `i·H`, for every i and every H; the entry of 2k is the Double of
the entry of k, the entry of 2k + 1 is that plus H; entry 0 is zero and entry 8 is H itself. -/
def Obligations.TableHoldsTheMultiplesOfTheSubkey : Prop :=
  ∀ h : FieldElement,
    (∀ i : BitVec 4, StandsFor (tableGet (buildTable h) (reverseBits i)) (nibblePoly i * toPoly h)) ∧
    (∀ k : BitVec 4, k.toNat < 8 →
      tableGet (buildTable h) (reverseBits (2 * k)) = double (tableGet (buildTable h) (reverseBits k)) ∧
      tableGet (buildTable h) (reverseBits (2 * k + 1)) = add (tableGet (buildTable h) (reverseBits (2 * k))) h) ∧
    tableGet (buildTable h) 0 = FieldElement.zero ∧ tableGet (buildTable h) 8 = h

/-- 41_table_mul R146: with the table BuildTable(H), Mul is the product by H in the field; each of its steps takes z to
`z·x^4 + c·H`, c being the reversed nibble read as a polynomial; and its consequences: zero, one, x, and sums. -/
def Obligations.MulIsTheFieldProduct : Prop :=
  ∀ h : FieldElement,
    (∀ y, StandsFor (mul y (buildTable h)) (toPoly y * toPoly h)) ∧
    (∀ (z : FieldElement) (n : BitVec 4),
      StandsFor (mulNibble (buildTable h) z n) (toPoly z * Polynomial.X ^ 4 + nibblePoly (reverseBits n) * toPoly h)) ∧
    mul FieldElement.zero (buildTable h) = FieldElement.zero ∧
    mul { low := 0x8000000000000000, high := 0 } (buildTable h) = h ∧
    mul { low := 0x4000000000000000, high := 0 } (buildTable h) = double h ∧
    ∀ a b, mul (add a b) (buildTable h) = add (mul a (buildTable h)) (mul b (buildTable h))

/-! ### The GHASH unit -/

/-- 42_ghash R164: GHUPD, its word; NOT_READY, then RANGE; else its result and its frame, for every length. -/
def Obligations.GhupdAbsorbsTheSource : Prop :=
  ∀ (vd : RegField) (s : State), RegField.ok vd = true →
    encode (.ghupd vd) = cmdWord 0x20 vd 0 0 ∧
    (s.ctx.valid = false → exec (.ghupd vd) s = .next (fatal s 0x02)) ∧
    (s.ctx.valid = true → 2 ^ 64 < s.srcAddr.toNat + s.srcLen.toNat → exec (.ghupd vd) s = .next (fatal s 0x06)) ∧
    (s.ctx.valid = true → s.srcAddr.toNat + s.srcLen.toNat ≤ 2 ^ 64 →
      ∃ t, exec (.ghupd vd) s = .next t ∧
        t.getV vd = update (s.getV vd) (s.bytesAt s.srcAddr s.srcLen.toNat) s.ctx.table ∧ VectorFrame s t vd [])

/-- 42_ghash R160, R162: UpdateBlocks takes the blocks in order, adding each to y and multiplying; Update of whole blocks is
UpdateBlocks; it splits at a block boundary; a partial last chunk counts as padded with zeros, to the end of its block or in part
(R163 (1), (4), (5)). -/
def Obligations.UpdateGoesBlockByBlockAndPadsWithZeros : Prop :=
  ∀ (t : Table) (y : FieldElement),
    updateBlocks y [] t = y ∧ update y [] t = y ∧
    (∀ b rest : Bytes, b.length = 16 → rest.length % 16 = 0 →
      updateBlocks y (b ++ rest) t =
        updateBlocks (mul { low := y.low ^^^ be64 (b.take 8), high := y.high ^^^ be64 (b.drop 8) } t) rest t) ∧
    (∀ data : Bytes, data.length % 16 = 0 → update y data t = updateBlocks y data t) ∧
    (∀ a b : Bytes, a.length % 16 = 0 → update (update y a t) b t = update y (a ++ b) t) ∧
    ∀ (data : Bytes) (k : Nat), data.length % 16 ≠ 0 → k ≤ 16 - data.length % 16 →
      update y (data ++ zeros k) t = update y data t

/-- 42_ghash R163 (3), (6): GHASH of whole blocks is the sum of the blocks times falling powers of H; GHASH of zeros is zero. -/
def Obligations.GhashIsThePolynomialInTheSubkey : Prop :=
  ∀ h : FieldElement,
    (∀ blocks : List Bytes, (∀ b ∈ blocks, b.length = 16) →
      StandsFor (update FieldElement.zero blocks.flatten (buildTable h)) (ghashPoly (toPoly h) blocks)) ∧
    ∀ n : Nat, update FieldElement.zero (zeros n) (buildTable h) = FieldElement.zero

/-! ### The counter-mode unit -/

/-- 43_ctr R170: Inc32 keeps bytes 0 to 11 and adds one to the 32-bit count modulo 2^32; on a register holding the block,
`high[31:0]` goes up and the rest stays. -/
def Obligations.IncrementTouchesTheCountOnly : Prop :=
  (∀ c : Bytes, c.length = 16 →
    (inc32 c).length = 16 ∧ (inc32 c).take 12 = c.take 12 ∧
    (be32 ((inc32 c).drop 12)).toNat = ((be32 (c.drop 12)).toNat + 1) % 2 ^ 32) ∧
  ∀ x : FieldElement,
    let y := fromBytes (inc32 (toBytes x))
    y.low = x.low ∧ y.high.extractLsb' 32 32 = x.high.extractLsb' 32 32 ∧
      y.high.extractLsb' 0 32 = x.high.extractLsb' 0 32 + 1

/-- 43_ctr R175: CINC, its word; NOT_READY without a context; else the count in `high[31:0]` goes up modulo 2^32, the other bits of
the register stay, and its frame. -/
def Obligations.CincIncrementsTheCount : Prop :=
  ∀ (vd va : RegField) (s : State), RegField.ok vd = true → RegField.ok va = true →
    encode (.cinc vd va) = cmdWord 0x32 vd va 0 ∧
    (s.ctx.valid = false → exec (.cinc vd va) s = .next (fatal s 0x02)) ∧
    (s.ctx.valid = true →
      ∃ t, exec (.cinc vd va) s = .next t ∧ (t.getV vd).low = (s.getV va).low ∧
        (t.getV vd).high =
          ((s.getV va).high &&& 0xffffffff00000000) ||| (((s.getV va).high + 1) &&& 0x00000000ffffffff) ∧
        VectorFrame s t vd [])

/-- 43_ctr R174: CENC, its word; NOT_READY without a context; else one Encrypt request and its answer, and its frame. -/
def Obligations.CencEncryptsOneBlock : Prop :=
  ∀ (vd va : RegField) (s : State), RegField.ok vd = true → RegField.ok va = true →
    encode (.cenc vd va) = cmdWord 0x31 vd va 0 ∧
    (s.ctx.valid = false → exec (.cenc vd va) s = .next (fatal s 0x02)) ∧
    (s.ctx.valid = true →
      ∃ t, exec (.cenc vd va) s = .next t ∧ toBytes (t.getV vd) = s.cipher.encrypt (toBytes (s.getV va)) ∧
        VectorFrame s t vd [.encrypt (toBytes (s.getV va))])

/-- 43_ctr R176: CTRX, its word, its fatal errors in their order, and otherwise what it writes: the output region, the counter
register, OUT_LEN, `ceil(L/16)` requests by rising counter; everything else stays. -/
def Obligations.CtrxEncryptsTheSource : Prop :=
  ∀ (vd : RegField) (s : State), RegField.ok vd = true →
    let L := s.srcLen.toNat
    let past := 2 ^ 64 < s.srcAddr.toNat + L ∨ 2 ^ 64 < s.dstAddr.toNat + L
    let clash := InexactOverlap s.dstAddr.toNat L s.srcAddr.toNat L
    encode (.ctrx vd) = cmdWord 0x30 vd 0 0 ∧
    (s.ctx.valid = false → exec (.ctrx vd) s = .next (fatal s 0x02)) ∧
    (s.ctx.valid = true → CAP < L → exec (.ctrx vd) s = .next (fatal s 0x04)) ∧
    (s.ctx.valid = true → L ≤ CAP → past → exec (.ctrx vd) s = .next (fatal s 0x06)) ∧
    (s.ctx.valid = true → L ≤ CAP → ¬past → clash → exec (.ctrx vd) s = .next (fatal s 0x05)) ∧
    (s.ctx.valid = true → L ≤ CAP → ¬past → ¬clash →
      ∃ t, exec (.ctrx vd) s = .next t ∧
        t.bytesAt s.dstAddr L = (counterCrypt s.cipher.encrypt (s.bytesAt s.srcAddr L) (toBytes (s.getV vd))).1 ∧
        MemoryFrame s t s.dstAddr.toNat L ∧
        toBytes (t.getV vd) = (counterCrypt s.cipher.encrypt (s.bytesAt s.srcAddr L) (toBytes (s.getV vd))).2 ∧
        (∀ r, RegField.ok r = true → r ≠ vd → t.getV r = s.getV r) ∧
        t.requests = s.requests ++ (List.range (ceil16 L)).map (fun k => .encrypt (inc32^[k] (toBytes (s.getV vd)))) ∧
        t = { s with vregs := t.vregs, mem := t.mem, outLen := s.srcLen, requests := t.requests, busy := false, result := 0x00 })

/-- 43_ctr R172: counterCrypt chunk by chunk: each chunk is exclusive-ored with the leading bytes of the encrypted counter, and the
counter is incremented once per chunk, the partial one too; the output is as long as the input, and the count handed back has gone
up by the number of chunks. -/
def Obligations.CounterModeGoesChunkByChunk : Prop :=
  ∀ (E : Bytes → Bytes), (∀ b, (E b).length = 16) → ∀ (inp c : Bytes),
    (counterCrypt E inp c).1.length = inp.length ∧
    counterCrypt E [] c = ([], c) ∧
    (inp ≠ [] →
      counterCrypt E inp c =
        (List.zipWith (· ^^^ ·) (inp.take 16) (E c) ++ (counterCrypt E (inp.drop 16) (inc32 c)).1,
          (counterCrypt E (inp.drop 16) (inc32 c)).2)) ∧
    (counterCrypt E inp c).2 = inc32^[ceil16 inp.length] c ∧
    (c.length = 16 →
      (be32 ((counterCrypt E inp c).2.drop 12)).toNat = ((be32 (c.drop 12)).toNat + ceil16 inp.length) % 2 ^ 32)

/-- 43_ctr R173: counterCrypt is its own inverse; byte i of the output is byte i of the input and one byte of the mask of its chunk, so
the output for a prefix is the prefix of the output; the first 2^32 counters from any block on are distinct, so that one call uses none
twice, and Seal, starting one after counter0, none equal to counter0. -/
def Obligations.CounterModeIsItsOwnInverse : Prop :=
  ∀ (E : Bytes → Bytes), (∀ b, (E b).length = 16) → ∀ (p c : Bytes),
    counterCrypt E (counterCrypt E p c).1 c = (p, (counterCrypt E p c).2) ∧
    (∀ i : Nat, i < p.length →
      (counterCrypt E p c).1.getD i 0 = p.getD i 0 ^^^ (E (inc32^[i / 16] c)).getD (i % 16) 0) ∧
    (∀ n : Nat, (counterCrypt E (p.take n) c).1 = (counterCrypt E p c).1.take n) ∧
    (c.length = 16 → ∀ j k : Nat, j < 2 ^ 32 → k < 2 ^ 32 → inc32^[j] c = inc32^[k] c → j = k)

/-! ### The GCM engine -/

/-- 44_gcm R192: INIT: its word; the three checks in order, each leaving the context cleared; else the new context. Nothing but
the context, RESULT, BUSY and the record of requests changes; no byte of memory does. -/
def Obligations.InitBuildsOrClearsTheContext : Prop :=
  ∀ s : State, ∃ t, exec .initCtx s = .next t ∧
    encode .initCtx = 0x0000000000000040 ∧
    t = { s with ctx := t.ctx, requests := t.requests, busy := false, result := t.result } ∧
    (∀ a, Memory.read t.mem a = Memory.read s.mem a) ∧
    (if s.cfgTagSize.toNat < 12 ∨ 16 < s.cfgTagSize.toNat then
      t.ctx = Context.clear ∧ t.result = 0x02 ∧ t.requests = s.requests
    else if s.cfgNonceSize.toNat = 0 ∨ 2 ^ 61 ≤ s.cfgNonceSize.toNat then
      t.ctx = Context.clear ∧ t.result = 0x03 ∧ t.requests = s.requests
    else if s.cipher.blockSize ≠ 16 then
      t.ctx = Context.clear ∧ t.result = 0x04 ∧ t.requests = s.requests ++ [.blockSize]
    else
      t.ctx.valid = true ∧ t.ctx.nonceSize = s.cfgNonceSize ∧ t.ctx.tagSize = s.cfgTagSize ∧
        t.ctx.table = buildTable (fromBytes (s.cipher.encrypt (zeros 16))) ∧ t.result = 0x00 ∧
        t.requests = s.requests ++ [.blockSize, .encrypt (zeros 16)])

/-- 44_gcm R200: DERIVE: its word, its fatal errors in their order, else its result and its frame; for a 12-byte nonce the result
is the nonce with the count 1. -/
def Obligations.DeriveGivesTheFirstCounter : Prop :=
  ∀ (vd : RegField) (s : State), RegField.ok vd = true →
    encode (.derive vd) = cmdWord 0x43 vd 0 0 ∧
    (s.ctx.valid = false → exec (.derive vd) s = .next (fatal s 0x02)) ∧
    (s.ctx.valid = true → s.nonceLen ≠ s.ctx.nonceSize → exec (.derive vd) s = .next (fatal s 0x03)) ∧
    (s.ctx.valid = true → s.nonceLen = s.ctx.nonceSize → 2 ^ 64 < s.nonceAddr.toNat + s.nonceLen.toNat →
      exec (.derive vd) s = .next (fatal s 0x06)) ∧
    (s.ctx.valid = true → s.nonceLen = s.ctx.nonceSize → s.nonceAddr.toNat + s.nonceLen.toNat ≤ 2 ^ 64 →
      ∃ t, exec (.derive vd) s = .next t ∧
        toBytes (t.getV vd) = deriveCounter (s.bytesAt s.nonceAddr s.nonceLen.toNat) s.ctx.table ∧
        (s.nonceLen = 12 → toBytes (t.getV vd) = s.bytesAt s.nonceAddr 12 ++ [0, 0, 0, 1]) ∧
        VectorFrame s t vd [])

/-- 44_gcm R198: deriveCounter on a nonce of 12 bytes is the nonce with the count 1; on any other it is the absorption of the
nonce and then of one more block, 64 zero bits and the bit length of the nonce, which does not wrap. -/
def Obligations.FirstCounterIsTheNonceOrItsHash : Prop :=
  ∀ (t : Table) (nonce : Bytes), nonce.length < 2 ^ 61 →
    (nonce.length = 12 → deriveCounter nonce t = nonce ++ [0x00, 0x00, 0x00, 0x01]) ∧
    (nonce.length ≠ 12 →
      ∃ bits : Word, bits.toNat = nonce.length * 8 ∧
        deriveCounter nonce t = toBytes (updateBlocks (update FieldElement.zero nonce t) (zeros 8 ++ bytes8 bits) t))

/-- 44_gcm R204: auth absorbs the associated data, the ciphertext, and the block of the two bit lengths, and adds the mask; for two
empty strings, under a table BuildTable(H), the result is the mask. -/
def Obligations.TagIsTheHashOfDataAndLengths : Prop :=
  (∀ (t : Table) (ct aad mask : Bytes), aad.length < 2 ^ 61 → ct.length ≤ CAP →
    ∃ aadBits ctBits : Word, aadBits.toNat = aad.length * 8 ∧ ctBits.toNat = ct.length * 8 ∧
      authTag ct aad mask t =
        xorBytes (toBytes (updateBlocks (update (update FieldElement.zero aad t) ct t)
          (bytes8 aadBits ++ bytes8 ctBits) t)) mask) ∧
  ∀ (h : FieldElement) (mask : Bytes), mask.length = 16 → authTag [] [] mask (buildTable h) = mask

/-- 44_gcm R206: AUTH: its word, its fatal errors in their order, else the full tag and its frame; the two regions may overlap. -/
def Obligations.AuthComputesTheTag : Prop :=
  ∀ (vd va : RegField) (s : State), RegField.ok vd = true → RegField.ok va = true →
    let past := 2 ^ 64 < s.srcAddr.toNat + s.srcLen.toNat ∨ 2 ^ 64 < s.aadAddr.toNat + s.aadLen.toNat
    encode (.auth vd va) = cmdWord 0x44 vd va 0 ∧
    (s.ctx.valid = false → exec (.auth vd va) s = .next (fatal s 0x02)) ∧
    (s.ctx.valid = true → CAP < s.srcLen.toNat → exec (.auth vd va) s = .next (fatal s 0x04)) ∧
    (s.ctx.valid = true → s.srcLen.toNat ≤ CAP → 2 ^ 61 ≤ s.aadLen.toNat → exec (.auth vd va) s = .next (fatal s 0x07)) ∧
    (s.ctx.valid = true → s.srcLen.toNat ≤ CAP → s.aadLen.toNat < 2 ^ 61 → past →
      exec (.auth vd va) s = .next (fatal s 0x06)) ∧
    (s.ctx.valid = true → s.srcLen.toNat ≤ CAP → s.aadLen.toNat < 2 ^ 61 → ¬past →
      ∃ t, exec (.auth vd va) s = .next t ∧
        toBytes (t.getV vd) = authTag (s.bytesAt s.srcAddr s.srcLen.toNat) (s.bytesAt s.aadAddr s.aadLen.toNat)
          (toBytes (s.getV va)) s.ctx.table ∧
        VectorFrame s t vd [])

/-- 44_gcm R207: Seal is the counter-mode ciphertext under the counter after counter0, then the leading `ts` bytes of the tag over
that ciphertext, masked with the encrypted counter0. -/
def Obligations.SealIsCiphertextThenTag : Prop :=
  ∀ (E : Bytes → Bytes), (∀ b, (E b).length = 16) → ∀ (t : Table) (ts : Nat) (nonce pt aad : Bytes), ts ≤ 16 →
    let counter0 := deriveCounter nonce t
    let ct := (counterCrypt E pt (inc32 counter0)).1
    (gcmSeal E t ts nonce pt aad).take pt.length = ct ∧
    (gcmSeal E t ts nonce pt aad).drop pt.length = (authTag ct aad (E counter0) t).take ts ∧
    (gcmSeal E t ts nonce pt aad).length = pt.length + ts

/-- 44_gcm R208: SEAL: its word, its fatal errors in their order, and otherwise what it writes: ciphertext and tag from DST_ADDR up,
OUT_LEN, `1 + ceil(L/16)` requests, the tag mask's first and then the keystream's by rising counter; no vector register; every other
byte stays. (The premise on the tag size holds of every context INIT builds.) -/
def Obligations.SealWritesCiphertextAndTag : Prop :=
  ∀ s : State, s.ctx.tagSize.toNat ≤ 16 →
    let L := s.srcLen.toNat
    let ts := s.ctx.tagSize.toNat
    let nonce := s.bytesAt s.nonceAddr s.nonceLen.toNat
    let past := 2 ^ 64 < s.nonceAddr.toNat + s.nonceLen.toNat ∨ 2 ^ 64 < s.srcAddr.toNat + L ∨
      2 ^ 64 < s.aadAddr.toNat + s.aadLen.toNat ∨ 2 ^ 64 < s.dstAddr.toNat + (L + ts)
    encode .sealMsg = 0x0000000000000041 ∧
    (s.ctx.valid = false → exec .sealMsg s = .next (fatal s 0x02)) ∧
    (s.ctx.valid = true → s.nonceLen ≠ s.ctx.nonceSize → exec .sealMsg s = .next (fatal s 0x03)) ∧
    (s.ctx.valid = true → s.nonceLen = s.ctx.nonceSize → CAP < L → exec .sealMsg s = .next (fatal s 0x04)) ∧
    (s.ctx.valid = true → s.nonceLen = s.ctx.nonceSize → L ≤ CAP → 2 ^ 61 ≤ s.aadLen.toNat →
      exec .sealMsg s = .next (fatal s 0x07)) ∧
    (s.ctx.valid = true → s.nonceLen = s.ctx.nonceSize → L ≤ CAP → s.aadLen.toNat < 2 ^ 61 → past →
      exec .sealMsg s = .next (fatal s 0x06)) ∧
    (s.ctx.valid = true → s.nonceLen = s.ctx.nonceSize → L ≤ CAP → s.aadLen.toNat < 2 ^ 61 → ¬past → SealOverlap s →
      exec .sealMsg s = .next (fatal s 0x05)) ∧
    (s.ctx.valid = true → s.nonceLen = s.ctx.nonceSize → L ≤ CAP → s.aadLen.toNat < 2 ^ 61 → ¬past → ¬SealOverlap s →
      ∃ t, exec .sealMsg s = .next t ∧
        t.bytesAt s.dstAddr (L + ts) =
          gcmSeal s.cipher.encrypt s.ctx.table ts nonce (s.bytesAt s.srcAddr L) (s.bytesAt s.aadAddr s.aadLen.toNat) ∧
        MemoryFrame s t s.dstAddr.toNat (L + ts) ∧
        t.outLen.toNat = L + ts ∧
        t.requests = s.requests ++ .encrypt (deriveCounter nonce s.ctx.table) ::
          (List.range (ceil16 L)).map (fun k => .encrypt (inc32^[k + 1] (deriveCounter nonce s.ctx.table))) ∧
        t = { s with mem := t.mem, outLen := t.outLen, requests := t.requests, busy := false, result := 0x00 })

/-- 44_gcm R212, 60_exceptions R253: OPEN: its word, its fatal errors in their order, and otherwise: a bad length: AUTH_FAIL, OUT_LEN 0,
nothing written, no request. A tag that is not the expected one: AUTH_FAIL, OUT_LEN 0, the output region zeroed, one request. The
expected tag: the plaintext in the output region, OUT_LEN its length, OK. No vector register changes; every byte outside the output
region stays. (The zeros are those of the two rules; 91_not_in_source N13 has a failed OPEN leave the region as it was, and the model
follows the rules, log 7.) -/
def Obligations.OpenVerifiesThenDecrypts : Prop :=
  ∀ s : State,
    let L := s.srcLen.toNat
    let ts := s.ctx.tagSize.toNat
    let body := s.bytesAt s.srcAddr (L - ts)
    let tag := Memory.readN s.mem (s.srcAddr.toNat + (L - ts)) ts
    let aad := s.bytesAt s.aadAddr s.aadLen.toNat
    let counter0 := deriveCounter (s.bytesAt s.nonceAddr s.nonceLen.toNat) s.ctx.table
    let expected := (authTag body aad (s.cipher.encrypt counter0) s.ctx.table).take ts
    let ready := s.ctx.valid = true ∧ s.nonceLen = s.ctx.nonceSize
    let past := 2 ^ 64 < s.nonceAddr.toNat + s.nonceLen.toNat ∨ 2 ^ 64 < s.srcAddr.toNat + L ∨
      2 ^ 64 < s.aadAddr.toNat + s.aadLen.toNat ∨ 2 ^ 64 < s.dstAddr.toNat + (L - ts)
    encode .openMsg = 0x0000000000000042 ∧
    (s.ctx.valid = false → exec .openMsg s = .next (fatal s 0x02)) ∧
    (s.ctx.valid = true → s.nonceLen ≠ s.ctx.nonceSize → exec .openMsg s = .next (fatal s 0x03)) ∧
    (ready → OpenLengthBad s →
      exec .openMsg s = .next { s with outLen := 0, busy := false, result := 0x01 }) ∧
    (ready → ¬OpenLengthBad s → 2 ^ 61 ≤ s.aadLen.toNat → exec .openMsg s = .next (fatal s 0x07)) ∧
    (ready → ¬OpenLengthBad s → s.aadLen.toNat < 2 ^ 61 → past → exec .openMsg s = .next (fatal s 0x06)) ∧
    (ready → ¬OpenLengthBad s → s.aadLen.toNat < 2 ^ 61 → ¬past → OpenOverlap s →
      exec .openMsg s = .next (fatal s 0x05)) ∧
    (ready → ¬OpenLengthBad s → s.aadLen.toNat < 2 ^ 61 → ¬past → ¬OpenOverlap s →
      ∃ t, exec .openMsg s = .next t ∧ MemoryFrame s t s.dstAddr.toNat (L - ts) ∧
        t = { s with mem := t.mem, outLen := t.outLen, requests := t.requests, busy := false, result := t.result } ∧
        (if tag = expected then
          t.result = 0x00 ∧ t.outLen.toNat = L - ts ∧
            t.bytesAt s.dstAddr (L - ts) = (counterCrypt s.cipher.encrypt body (inc32 counter0)).1 ∧
            t.requests = s.requests ++ .encrypt counter0 ::
              (List.range (ceil16 (L - ts))).map (fun k => .encrypt (inc32^[k + 1] counter0))
        else
          t.result = 0x01 ∧ t.outLen = 0 ∧ t.bytesAt s.dstAddr (L - ts) = zeros (L - ts) ∧
            t.requests = s.requests ++ [.encrypt counter0]))

/-- 44_gcm R216 (1): for every cipher function and every table, Open of what Seal made is the plaintext, up to the cap. -/
def Obligations.OpenUndoesSeal : Prop :=
  ∀ (E : Bytes → Bytes), (∀ b, (E b).length = 16) → ∀ (t : Table) (ts : Nat) (nonce pt aad : Bytes), ts ≤ 16 →
    pt.length ≤ CAP → gcmOpen E t ts nonce (gcmSeal E t ts nonce pt aad) aad = some pt

/-- 44_gcm R216 (3): for every cipher function, Open of a sealed message whose tag bytes were changed in any way is
AuthenticationFailed; and whatever is presented, Open accepts only the expected tag. -/
def Obligations.OpenRejectsAChangedTag : Prop :=
  ∀ (E : Bytes → Bytes), (∀ b, (E b).length = 16) → ∀ (t : Table) (ts : Nat) (nonce pt aad tag' : Bytes), ts ≤ 16 →
    tag'.length = ts →
    (tag' ≠ (gcmSeal E t ts nonce pt aad).drop pt.length →
      gcmOpen E t ts nonce ((gcmSeal E t ts nonce pt aad).take pt.length ++ tag') aad = none) ∧
    ∀ body p : Bytes, gcmOpen E t ts nonce (body ++ tag') aad = some p →
      tag' = (authTag body aad (E (deriveCounter nonce t)) t).take ts ∧
        p = (counterCrypt E body (inc32 (deriveCounter nonce t))).1

/-- 44_gcm R216 (1), on the machine: SEAL, then the host points OPEN at its output and at any place for the plaintext that OPEN
accepts; OPEN ends with OK and the plaintext there. The nonce must not lie in SEAL's output region. -/
def Obligations.SealThenOpenGivesThePlaintext : Prop :=
  ∀ (s t : State) (d : Word), s.ctx.tagSize.toNat ≤ 16 → NoneHolds (tests .sealMsg s) →
    ¬AnyOverlap s.dstAddr.toNat (s.srcLen.toNat + s.ctx.tagSize.toNat) s.nonceAddr.toNat s.nonceLen.toNat →
    exec .sealMsg s = .next t →
    let u : State := { t with srcAddr := s.dstAddr, srcLen := t.outLen, dstAddr := d }
    NoneHolds (tests .openMsg u) →
      ∃ w, exec .openMsg u = .next w ∧ w.result = 0x00 ∧ w.fault = s.fault ∧ w.outLen = s.srcLen ∧
        w.bytesAt d s.srcLen.toNat = s.bytesAt s.srcAddr s.srcLen.toNat

/-- 20_memory R71: SEAL in place, or with its output anywhere else it accepts, gives the same bytes. -/
def Obligations.SealOutputDoesNotDependOnItsPlace : Prop :=
  ∀ (s : State) (d : Word), s.ctx.tagSize.toNat ≤ 16 → NoneHolds (tests .sealMsg s) →
    NoneHolds (tests .sealMsg { s with dstAddr := d }) →
    ∃ t t', exec .sealMsg s = .next t ∧ exec .sealMsg { s with dstAddr := d } = .next t' ∧
      t.bytesAt s.dstAddr (s.srcLen.toNat + s.ctx.tagSize.toNat) = t'.bytesAt d (s.srcLen.toNat + s.ctx.tagSize.toNat) ∧
      t.outLen = t'.outLen

/-! ### All commands -/

/-- 10_state R44: the command step always ends: every command, on every state, answers a next state with BUSY 0. -/
def Obligations.EveryCommandEnds : Prop :=
  ∀ (i : Instr) (s : State), ∃ t, exec i s = .next t ∧ t.busy = false ∧ t.cmdl = s.cmdl

/-- 60_exceptions R241, R248: a command ends in the fatal error of the first of its tests that holds, and in no fatal error when
none holds. -/
def Obligations.FirstTestDecidesTheFatalError : Prop :=
  ∀ (i : Instr) (s : State),
    (∀ code : Byte, FirstIs code (tests i s) → exec i s = .next (fatal s code)) ∧
    (NoneHolds (tests i s) → ∃ t, exec i s = .next t ∧ t.fault = s.fault ∧ t.fcause = s.fcause ∧ t.result.toNat ≤ 4)

/-- 60_exceptions R242, R243: a fatal error is precise: when a command raises FAULT, the state is that before it but for FAULT,
FCAUSE and BUSY, and FCAUSE is one of the seven codes. -/
def Obligations.FatalErrorChangesTheStatusOnly : Prop :=
  ∀ (i : Instr) (s t : State), s.fault = false → exec i s = .next t → t.fault = true →
    ∃ code : Byte, 1 ≤ code.toNat ∧ code.toNat ≤ 7 ∧ t = fatal s code

/-- 60_exceptions R242: whether a command ends in a fatal error, and in which, does not depend on memory, on a vector register, on
the table or on the cipher. -/
def Obligations.FatalErrorDependsOnNoSecret : Prop :=
  ∀ (i : Instr) (s t t' : State) (m : Memory) (v : Vector FieldElement 8) (tab : Table) (e : Cipher),
    exec i s = .next t →
    exec i { s with mem := m, vregs := v, ctx := { s.ctx with table := tab }, cipher := e } = .next t' →
    t.fault = t'.fault ∧ t.fcause = t'.fcause

/-- 10_state R33: no command but INIT writes the context; and one step of the machine that changes the context is the reset input or a
write to CTRL with bit 0 set, which clear it, or the core's turn in phase BUSY with INIT latched. -/
def Obligations.OnlyInitAndResetWriteTheContext : Prop :=
  (∀ (i : Instr) (s t : State), i ≠ .initCtx → exec i s = .next t → t.ctx = s.ctx) ∧
  ∀ s t : State, step s = .next t →
    t.ctx = s.ctx ∨
      (t.ctx = Context.clear ∧
        ((∃ rest, s.script = .resetInput :: rest) ∨
          ∃ v rest, s.script = .writeReg 0x02 v :: rest ∧ v.getLsbD 0 = true)) ∨
      (phase s = .busy ∧ decode s.cmdl = .ok .initCtx ∧ (s.script = [] ∨ ∃ rest, s.script = .coreTurn :: rest) ∧
        (t.ctx = Context.clear ∨ t.ctx.valid = true))

/-- 10_state R32: no command changes an operand register, and only SEAL, OPEN and CTRX write OUT_LEN. -/
def Obligations.CommandsKeepTheOperandRegisters : Prop :=
  ∀ (i : Instr) (s t : State), exec i s = .next t →
    t.cfgNonceSize = s.cfgNonceSize ∧ t.cfgTagSize = s.cfgTagSize ∧ t.dstAddr = s.dstAddr ∧ t.srcAddr = s.srcAddr ∧
    t.srcLen = s.srcLen ∧ t.aadAddr = s.aadAddr ∧ t.aadLen = s.aadLen ∧ t.nonceAddr = s.nonceAddr ∧ t.nonceLen = s.nonceLen ∧
    ((∀ vd, i ≠ .ctrx vd) → i ≠ .sealMsg → i ≠ .openMsg → t.outLen = s.outLen)

/-- 10_state R46: a command writes no vector register but its destination; INIT, SEAL and OPEN write none. -/
def Obligations.OnlyTheDestinationRegisterChanges : Prop :=
  ∀ (i : Instr) (s t : State), i.wellFormed = true → exec i s = .next t →
    (destination i = none → t.vregs = s.vregs) ∧
    ∀ r, RegField.ok r = true → destination i ≠ some r → t.getV r = s.getV r

/-- 20_memory R70: a command writes no byte outside the regions the rule's table gives it, and a command that ends in a fatal error
writes none. The regions are those the model computes for the host's duty. -/
def Obligations.OnlyTheOutputRegionIsWritten : Prop :=
  ∀ (i : Instr) (s t : State) (a : Nat), exec i s = .next t →
    (fatalCause i s ≠ none → Memory.read t.mem a = Memory.read s.mem a) ∧
    ((∀ r ∈ regionsWritten i s, ¬(r.addr ≤ a ∧ a < r.addr + r.len)) → Memory.read t.mem a = Memory.read s.mem a)

/-- 20_memory R70: a command's result depends on no byte of memory outside the regions the rule's table lets it read: over two
memories that agree there, everything but memory comes out the same, and so do the bytes it writes. -/
def Obligations.OnlyTheInputRegionsAreRead : Prop :=
  ∀ (i : Instr) (s t t' : State) (m : Memory),
    (∀ r ∈ regionsRead i s, ∀ a, r.addr ≤ a → a < r.addr + r.len → Memory.read m a = Memory.read s.mem a) →
    exec i s = .next t → exec i { s with mem := m } = .next t' →
    t' = { t with mem := t'.mem } ∧
    (fatalCause i s = none → s.ctx.tagSize.toNat ≤ 16 → ∀ r ∈ regionsWritten i s, ∀ a, r.addr ≤ a → a < r.addr + r.len →
      Memory.read t'.mem a = Memory.read t.mem a)

/-! ### The phases, the host's side -/

/-- The invariant holds after reset, whatever canonical memory the machine starts with (10_state R45). -/
def Obligations.ResetMeetsTheStateInvariant : Prop :=
  State.reset.Inv ∧ ∀ m : Memory, Memory.wf m = true → (State.start m).Inv

/-- Every step keeps the invariant: the phases (10_state R40), the cause and result codes (R25, R27, R28), the context, cleared or
INIT's own (R33), the canonical memory. -/
def Obligations.EveryStepKeepsTheStateInvariant : Prop :=
  ∀ s t : State, s.Inv → step s = .next t → t.Inv

/-- 60_exceptions R256, R243: in phase FAULTED one step leaves FAULT, FCAUSE, RESULT, the context, OUT_LEN and the command latch as they
are and runs no command, unless it is a reset, which leaves the core at its reset values, memory and the cipher untouched. -/
def Obligations.FaultStaysUntilReset : Prop :=
  ∀ s t : State, s.fault = true → step s = .next t →
    (t.fault = true ∧ t.fcause = s.fcause ∧ t.result = s.result ∧ t.ctx = s.ctx ∧ t.outLen = s.outLen ∧ t.cmdl = s.cmdl ∧
      t.busy = s.busy ∧ t.requests = s.requests) ∨
    (∃ rest, s.script = .resetInput :: rest ∧ ResetsTheCore s t) ∨
    (∃ v rest, s.script = .writeReg 0x02 v :: rest ∧ v.getLsbD 0 = true ∧ ResetsTheCore s t)

/-- 70_reset R298: a command that was started is executed in the end: from phase BUSY, over any finite script of register
accesses, core turns and resets, some number of steps leaves phase BUSY. (That a finite script stands for the fairness of the rule is
the model's choice, log 4.) -/
def Obligations.BusyCommandCompletesOrFaults : Prop :=
  ∀ s : State, phase s = .busy →
    (∀ e ∈ s.script, e = .coreTurn ∨ e = .resetInput ∨ (∃ n, e = .readReg n) ∨ ∃ n v, e = .writeReg n v) →
    ∃ k t, k ≤ s.script.length + 1 ∧ core.run k s = .next t ∧ phase t ≠ .busy

/-- 10_state R43: a write to CMD in phase IDLE is accepted whatever the word is: CMDL and BUSY change, everything else of the core
keeps its value; in phase BUSY and in phase FAULTED it is dropped. -/
def Obligations.CommandIsAcceptedInIdleOnly : Prop :=
  ∀ (s : State) (v : Word) (rest : List HostEvent),
    let s' : State := { s with script := rest }
    (phase s = .idle →
      ∃ t, step { s with script := .writeReg 0x00 v :: rest } = .next t ∧
        t = { s' with cmdl := v, busy := true, claimedReads := t.claimedReads, claimedWrites := t.claimedWrites }) ∧
    (phase s ≠ .idle → step { s with script := .writeReg 0x00 v :: rest } = .next s')

/-- 10_state R42: a host register write. CTRL resets or does nothing, in every phase; every other write is dropped while BUSY; CMD is
accepted in IDLE, dropped in FAULTED; an operand register or half a vector register takes all 64 bits, every other register reads
as before, and nothing that no register shows changes (memory, the latch, the product table); a write to a read-only or reserved number
changes nothing. -/
def Obligations.RegisterWritesGoByTheRule : Prop :=
  ∀ (s : State) (n : Nat) (v : Word),
    let t := s.writeReg (hostReg n) v
    (n = 0x02 → if v.getLsbD 0 then ResetsTheCore s t else t = s) ∧
    (phase s = .busy → n ≠ 0x02 → t = s) ∧
    (n = 0x00 → phase s = .faulted → t = s) ∧
    (n = 0x00 → phase s = .idle →
      t = { s with cmdl := v, busy := true, claimedReads := t.claimedReads, claimedWrites := t.claimedWrites } ∧
      ∀ m, m ≠ 0x01 → t.readReg (hostReg m) = s.readReg (hostReg m)) ∧
    (phase s ≠ .busy → (n = 0x04 ∨ n = 0x05 ∨ (0x08 ≤ n ∧ n ≤ 0x0E) ∨ (0x10 ≤ n ∧ n ≤ 0x1F)) →
      (∀ m, t.readReg (hostReg m) = if m = n then v else s.readReg (hostReg m)) ∧
      t = { s with
            vregs := t.vregs, cfgNonceSize := t.cfgNonceSize, cfgTagSize := t.cfgTagSize, dstAddr := t.dstAddr,
            srcAddr := t.srcAddr, srcLen := t.srcLen, aadAddr := t.aadAddr, aadLen := t.aadLen, nonceAddr := t.nonceAddr,
            nonceLen := t.nonceLen }) ∧
    ((n = 0x01 ∨ n = 0x03 ∨ n = 0x06 ∨ n = 0x07 ∨ n = 0x0F ∨ 0x20 ≤ n) → t = s)

/-- 10_state R41: a host read takes nothing but itself off the script and changes no register of the core, no memory; it shows
the host the value: CMD, CTRL and reserved numbers read 0, STATUS the word of the current state, every other number its register. -/
def Obligations.RegisterReadsHaveNoSideEffect : Prop :=
  ∀ (s : State) (n : Nat) (rest : List HostEvent),
    (∃ t, step { s with script := .readReg n :: rest } = .next t ∧
      t = { s with script := rest, seen := .reg n (s.readReg (hostReg n)) :: s.seen,
                   claimedReads := t.claimedReads, claimedWrites := t.claimedWrites }) ∧
    ((n = 0x00 ∨ n = 0x02 ∨ n = 0x03 ∨ 0x20 ≤ n) → s.readReg (hostReg n) = 0) ∧
    (n = 0x01 → s.readReg (hostReg n) = statusWord s) ∧
    [0x04, 0x05, 0x06, 0x07, 0x08, 0x09, 0x0A, 0x0B, 0x0C, 0x0D, 0x0E, 0x0F].map (fun k => s.readReg (hostReg k)) =
      [s.cfgNonceSize, s.cfgTagSize, s.ctx.nonceSize, s.ctx.tagSize, s.dstAddr, s.srcAddr, s.srcLen, s.aadAddr, s.aadLen,
        s.nonceAddr, s.nonceLen, s.outLen] ∧
    ∀ k : Fin 8, s.readReg (hostReg (0x10 + 2 * k.val)) = (s.getV (BitVec.ofNat 4 k.val)).low ∧
      s.readReg (hostReg (0x11 + 2 * k.val)) = (s.getV (BitVec.ofNat 4 k.val)).high

/-- 10_state R31: NONCE_SIZE and OVERHEAD read the context's sizes, and both read 0 while the context is not valid, in every state
that meets the invariant. -/
def Obligations.AccessorsReadZeroWithoutAContext : Prop :=
  ∀ s : State, s.Inv →
    s.readReg (hostReg 0x06) = s.ctx.nonceSize ∧ s.readReg (hostReg 0x07) = s.ctx.tagSize ∧
    (s.ctx.valid = false → s.readReg (hostReg 0x06) = 0 ∧ s.readReg (hostReg 0x07) = 0)

/-- 10_state R25: the STATUS word, bit by bit and field by field. -/
def Obligations.StatusWordHasItsFields : Prop :=
  ∀ s : State,
    (statusWord s).getLsbD 0 = s.busy ∧ (statusWord s).getLsbD 1 = s.ctx.valid ∧ (statusWord s).getLsbD 2 = s.fault ∧
    (∀ k, 3 ≤ k → k ≤ 7 → (statusWord s).getLsbD k = false) ∧ (statusWord s).extractLsb' 8 8 = s.result ∧
    (statusWord s).extractLsb' 16 8 = s.fcause ∧ (statusWord s).extractLsb' 24 40 = 0

/-- 70_reset R290, 93_implementation_defined U3 (the model's refusal, log 5): from the acceptance of SEAL on, until STATUS has been read
with BUSY = 0, a host write to a byte of the regions it uses, and a host read of a byte it writes, is refused by name. -/
def Obligations.BuffersOfARunningSealAreRefused : Prop :=
  ∀ (s t : State) (a : Word) (b : Byte) (rest : List HostEvent), phase s = .idle → fatalCause .sealMsg s = none →
    t = s.acceptCommand 0x41 →
    (((sealOut s).has a.toNat ∨ s.srcRegion.has a.toNat ∨ s.aadRegion.has a.toNat ∨ s.nonceRegion.has a.toNat) →
      step { t with script := .writeMem a [b] :: rest } = .refused .hostTouchedBuffer) ∧
    ((sealOut s).has a.toNat → step { t with script := .readMem a 1 :: rest } = .refused .hostTouchedBuffer)

/-- 45_random_nonce R232, R234: a caller-supplied nonce is the host's own abort, no command issued; ROPEN of fewer than 28 bytes is the
recoverable AuthenticationFailed, no command issued. -/
def Obligations.WrapperRefusesANonceAndAShortMessage : Prop :=
  ∀ (s : State) (dst nlen src len aad alen : Word) (rest : List HostEvent),
    let s' : State := { s with script := rest }
    (nlen ≠ 0 → step { s with script := .rseal dst nlen src len aad alen :: rest } = .next (s'.observe .hostAbort)) ∧
    (nlen ≠ 0 → step { s with script := .ropen dst nlen src len aad alen :: rest } = .next (s'.observe .hostAbort)) ∧
    (nlen = 0 → len.toNat < 28 →
      step { s with script := .ropen dst nlen src len aad alen :: rest } = .next (s'.observe .authenticationFailed))

end
end

