-- ==== Sys2Proof/Laws/State.lean ====
section
/-! SUPPORT. One lemma per field per update of the state: what each named update leaves in each field, so that no later proof
unfolds a record update. -/

namespace Sys2Proof.Machine

section
variable (s : State) (r : RegField) (x : FieldElement)
@[simp] theorem State.setV_vregs : (s.setV r x).vregs = s.vregs.set (regIndex r).val x := rfl
@[simp] theorem State.setV_cfgNonceSize : (s.setV r x).cfgNonceSize = s.cfgNonceSize := rfl
@[simp] theorem State.setV_cfgTagSize : (s.setV r x).cfgTagSize = s.cfgTagSize := rfl
@[simp] theorem State.setV_dstAddr : (s.setV r x).dstAddr = s.dstAddr := rfl
@[simp] theorem State.setV_srcAddr : (s.setV r x).srcAddr = s.srcAddr := rfl
@[simp] theorem State.setV_srcLen : (s.setV r x).srcLen = s.srcLen := rfl
@[simp] theorem State.setV_aadAddr : (s.setV r x).aadAddr = s.aadAddr := rfl
@[simp] theorem State.setV_aadLen : (s.setV r x).aadLen = s.aadLen := rfl
@[simp] theorem State.setV_nonceAddr : (s.setV r x).nonceAddr = s.nonceAddr := rfl
@[simp] theorem State.setV_nonceLen : (s.setV r x).nonceLen = s.nonceLen := rfl
@[simp] theorem State.setV_outLen : (s.setV r x).outLen = s.outLen := rfl
@[simp] theorem State.setV_ctx : (s.setV r x).ctx = s.ctx := rfl
@[simp] theorem State.setV_busy : (s.setV r x).busy = s.busy := rfl
@[simp] theorem State.setV_fault : (s.setV r x).fault = s.fault := rfl
@[simp] theorem State.setV_result : (s.setV r x).result = s.result := rfl
@[simp] theorem State.setV_fcause : (s.setV r x).fcause = s.fcause := rfl
@[simp] theorem State.setV_cmdl : (s.setV r x).cmdl = s.cmdl := rfl
@[simp] theorem State.setV_mem : (s.setV r x).mem = s.mem := rfl
@[simp] theorem State.setV_cipher : (s.setV r x).cipher = s.cipher := rfl
@[simp] theorem State.setV_requests : (s.setV r x).requests = s.requests := rfl
@[simp] theorem State.setV_script : (s.setV r x).script = s.script := rfl
@[simp] theorem State.setV_seen : (s.setV r x).seen = s.seen := rfl
@[simp] theorem State.setV_claimedReads : (s.setV r x).claimedReads = s.claimedReads := rfl
@[simp] theorem State.setV_claimedWrites : (s.setV r x).claimedWrites = s.claimedWrites := rfl
@[simp] theorem State.setV_randoms : (s.setV r x).randoms = s.randoms := rfl
@[simp] theorem State.setV_draws : (s.setV r x).draws = s.draws := rfl
@[simp] theorem State.setV_free : (s.setV r x).free = s.free := rfl
end

section
variable (s : State) (b : Bytes)
@[simp] theorem State.store_vregs : (s.store b).vregs = s.vregs := rfl
@[simp] theorem State.store_cfgNonceSize : (s.store b).cfgNonceSize = s.cfgNonceSize := rfl
@[simp] theorem State.store_cfgTagSize : (s.store b).cfgTagSize = s.cfgTagSize := rfl
@[simp] theorem State.store_dstAddr : (s.store b).dstAddr = s.dstAddr := rfl
@[simp] theorem State.store_srcAddr : (s.store b).srcAddr = s.srcAddr := rfl
@[simp] theorem State.store_srcLen : (s.store b).srcLen = s.srcLen := rfl
@[simp] theorem State.store_aadAddr : (s.store b).aadAddr = s.aadAddr := rfl
@[simp] theorem State.store_aadLen : (s.store b).aadLen = s.aadLen := rfl
@[simp] theorem State.store_nonceAddr : (s.store b).nonceAddr = s.nonceAddr := rfl
@[simp] theorem State.store_nonceLen : (s.store b).nonceLen = s.nonceLen := rfl
@[simp] theorem State.store_outLen : (s.store b).outLen = s.outLen := rfl
@[simp] theorem State.store_ctx : (s.store b).ctx = s.ctx := rfl
@[simp] theorem State.store_busy : (s.store b).busy = s.busy := rfl
@[simp] theorem State.store_fault : (s.store b).fault = s.fault := rfl
@[simp] theorem State.store_result : (s.store b).result = s.result := rfl
@[simp] theorem State.store_fcause : (s.store b).fcause = s.fcause := rfl
@[simp] theorem State.store_cmdl : (s.store b).cmdl = s.cmdl := rfl
@[simp] theorem State.store_mem : (s.store b).mem = Memory.writeN s.mem s.dstAddr.toNat b := rfl
@[simp] theorem State.store_cipher : (s.store b).cipher = s.cipher := rfl
@[simp] theorem State.store_requests : (s.store b).requests = s.requests := rfl
@[simp] theorem State.store_script : (s.store b).script = s.script := rfl
@[simp] theorem State.store_seen : (s.store b).seen = s.seen := rfl
@[simp] theorem State.store_claimedReads : (s.store b).claimedReads = s.claimedReads := rfl
@[simp] theorem State.store_claimedWrites : (s.store b).claimedWrites = s.claimedWrites := rfl
@[simp] theorem State.store_randoms : (s.store b).randoms = s.randoms := rfl
@[simp] theorem State.store_draws : (s.store b).draws = s.draws := rfl
@[simp] theorem State.store_free : (s.store b).free = s.free := rfl
end

section
variable (s : State) (n : Nat)
@[simp] theorem State.setOutLen_vregs : (s.setOutLen n).vregs = s.vregs := rfl
@[simp] theorem State.setOutLen_cfgNonceSize : (s.setOutLen n).cfgNonceSize = s.cfgNonceSize := rfl
@[simp] theorem State.setOutLen_cfgTagSize : (s.setOutLen n).cfgTagSize = s.cfgTagSize := rfl
@[simp] theorem State.setOutLen_dstAddr : (s.setOutLen n).dstAddr = s.dstAddr := rfl
@[simp] theorem State.setOutLen_srcAddr : (s.setOutLen n).srcAddr = s.srcAddr := rfl
@[simp] theorem State.setOutLen_srcLen : (s.setOutLen n).srcLen = s.srcLen := rfl
@[simp] theorem State.setOutLen_aadAddr : (s.setOutLen n).aadAddr = s.aadAddr := rfl
@[simp] theorem State.setOutLen_aadLen : (s.setOutLen n).aadLen = s.aadLen := rfl
@[simp] theorem State.setOutLen_nonceAddr : (s.setOutLen n).nonceAddr = s.nonceAddr := rfl
@[simp] theorem State.setOutLen_nonceLen : (s.setOutLen n).nonceLen = s.nonceLen := rfl
@[simp] theorem State.setOutLen_outLen : (s.setOutLen n).outLen = BitVec.ofNat 64 n := rfl
@[simp] theorem State.setOutLen_ctx : (s.setOutLen n).ctx = s.ctx := rfl
@[simp] theorem State.setOutLen_busy : (s.setOutLen n).busy = s.busy := rfl
@[simp] theorem State.setOutLen_fault : (s.setOutLen n).fault = s.fault := rfl
@[simp] theorem State.setOutLen_result : (s.setOutLen n).result = s.result := rfl
@[simp] theorem State.setOutLen_fcause : (s.setOutLen n).fcause = s.fcause := rfl
@[simp] theorem State.setOutLen_cmdl : (s.setOutLen n).cmdl = s.cmdl := rfl
@[simp] theorem State.setOutLen_mem : (s.setOutLen n).mem = s.mem := rfl
@[simp] theorem State.setOutLen_cipher : (s.setOutLen n).cipher = s.cipher := rfl
@[simp] theorem State.setOutLen_requests : (s.setOutLen n).requests = s.requests := rfl
@[simp] theorem State.setOutLen_script : (s.setOutLen n).script = s.script := rfl
@[simp] theorem State.setOutLen_seen : (s.setOutLen n).seen = s.seen := rfl
@[simp] theorem State.setOutLen_claimedReads : (s.setOutLen n).claimedReads = s.claimedReads := rfl
@[simp] theorem State.setOutLen_claimedWrites : (s.setOutLen n).claimedWrites = s.claimedWrites := rfl
@[simp] theorem State.setOutLen_randoms : (s.setOutLen n).randoms = s.randoms := rfl
@[simp] theorem State.setOutLen_draws : (s.setOutLen n).draws = s.draws := rfl
@[simp] theorem State.setOutLen_free : (s.setOutLen n).free = s.free := rfl
end

section
variable (s : State) (rs : List CipherRequest)
@[simp] theorem State.request_vregs : (s.request rs).vregs = s.vregs := rfl
@[simp] theorem State.request_cfgNonceSize : (s.request rs).cfgNonceSize = s.cfgNonceSize := rfl
@[simp] theorem State.request_cfgTagSize : (s.request rs).cfgTagSize = s.cfgTagSize := rfl
@[simp] theorem State.request_dstAddr : (s.request rs).dstAddr = s.dstAddr := rfl
@[simp] theorem State.request_srcAddr : (s.request rs).srcAddr = s.srcAddr := rfl
@[simp] theorem State.request_srcLen : (s.request rs).srcLen = s.srcLen := rfl
@[simp] theorem State.request_aadAddr : (s.request rs).aadAddr = s.aadAddr := rfl
@[simp] theorem State.request_aadLen : (s.request rs).aadLen = s.aadLen := rfl
@[simp] theorem State.request_nonceAddr : (s.request rs).nonceAddr = s.nonceAddr := rfl
@[simp] theorem State.request_nonceLen : (s.request rs).nonceLen = s.nonceLen := rfl
@[simp] theorem State.request_outLen : (s.request rs).outLen = s.outLen := rfl
@[simp] theorem State.request_ctx : (s.request rs).ctx = s.ctx := rfl
@[simp] theorem State.request_busy : (s.request rs).busy = s.busy := rfl
@[simp] theorem State.request_fault : (s.request rs).fault = s.fault := rfl
@[simp] theorem State.request_result : (s.request rs).result = s.result := rfl
@[simp] theorem State.request_fcause : (s.request rs).fcause = s.fcause := rfl
@[simp] theorem State.request_cmdl : (s.request rs).cmdl = s.cmdl := rfl
@[simp] theorem State.request_mem : (s.request rs).mem = s.mem := rfl
@[simp] theorem State.request_cipher : (s.request rs).cipher = s.cipher := rfl
@[simp] theorem State.request_requests : (s.request rs).requests = s.requests ++ rs := rfl
@[simp] theorem State.request_script : (s.request rs).script = s.script := rfl
@[simp] theorem State.request_seen : (s.request rs).seen = s.seen := rfl
@[simp] theorem State.request_claimedReads : (s.request rs).claimedReads = s.claimedReads := rfl
@[simp] theorem State.request_claimedWrites : (s.request rs).claimedWrites = s.claimedWrites := rfl
@[simp] theorem State.request_randoms : (s.request rs).randoms = s.randoms := rfl
@[simp] theorem State.request_draws : (s.request rs).draws = s.draws := rfl
@[simp] theorem State.request_free : (s.request rs).free = s.free := rfl
end

section
variable (s : State) (c : Cause)
@[simp] theorem State.raiseFatal_vregs : (s.raiseFatal c).vregs = s.vregs := rfl
@[simp] theorem State.raiseFatal_cfgNonceSize : (s.raiseFatal c).cfgNonceSize = s.cfgNonceSize := rfl
@[simp] theorem State.raiseFatal_cfgTagSize : (s.raiseFatal c).cfgTagSize = s.cfgTagSize := rfl
@[simp] theorem State.raiseFatal_dstAddr : (s.raiseFatal c).dstAddr = s.dstAddr := rfl
@[simp] theorem State.raiseFatal_srcAddr : (s.raiseFatal c).srcAddr = s.srcAddr := rfl
@[simp] theorem State.raiseFatal_srcLen : (s.raiseFatal c).srcLen = s.srcLen := rfl
@[simp] theorem State.raiseFatal_aadAddr : (s.raiseFatal c).aadAddr = s.aadAddr := rfl
@[simp] theorem State.raiseFatal_aadLen : (s.raiseFatal c).aadLen = s.aadLen := rfl
@[simp] theorem State.raiseFatal_nonceAddr : (s.raiseFatal c).nonceAddr = s.nonceAddr := rfl
@[simp] theorem State.raiseFatal_nonceLen : (s.raiseFatal c).nonceLen = s.nonceLen := rfl
@[simp] theorem State.raiseFatal_outLen : (s.raiseFatal c).outLen = s.outLen := rfl
@[simp] theorem State.raiseFatal_ctx : (s.raiseFatal c).ctx = s.ctx := rfl
@[simp] theorem State.raiseFatal_busy : (s.raiseFatal c).busy = false := rfl
@[simp] theorem State.raiseFatal_fault : (s.raiseFatal c).fault = true := rfl
@[simp] theorem State.raiseFatal_result : (s.raiseFatal c).result = s.result := rfl
@[simp] theorem State.raiseFatal_fcause : (s.raiseFatal c).fcause = c.code := rfl
@[simp] theorem State.raiseFatal_cmdl : (s.raiseFatal c).cmdl = s.cmdl := rfl
@[simp] theorem State.raiseFatal_mem : (s.raiseFatal c).mem = s.mem := rfl
@[simp] theorem State.raiseFatal_cipher : (s.raiseFatal c).cipher = s.cipher := rfl
@[simp] theorem State.raiseFatal_requests : (s.raiseFatal c).requests = s.requests := rfl
@[simp] theorem State.raiseFatal_script : (s.raiseFatal c).script = s.script := rfl
@[simp] theorem State.raiseFatal_seen : (s.raiseFatal c).seen = s.seen := rfl
@[simp] theorem State.raiseFatal_claimedReads : (s.raiseFatal c).claimedReads = s.claimedReads := rfl
@[simp] theorem State.raiseFatal_claimedWrites : (s.raiseFatal c).claimedWrites = s.claimedWrites := rfl
@[simp] theorem State.raiseFatal_randoms : (s.raiseFatal c).randoms = s.randoms := rfl
@[simp] theorem State.raiseFatal_draws : (s.raiseFatal c).draws = s.draws := rfl
@[simp] theorem State.raiseFatal_free : (s.raiseFatal c).free = s.free := rfl
end

section
variable (s : State) (r : ResultCode)
@[simp] theorem State.finish_vregs : (s.finish r).vregs = s.vregs := rfl
@[simp] theorem State.finish_cfgNonceSize : (s.finish r).cfgNonceSize = s.cfgNonceSize := rfl
@[simp] theorem State.finish_cfgTagSize : (s.finish r).cfgTagSize = s.cfgTagSize := rfl
@[simp] theorem State.finish_dstAddr : (s.finish r).dstAddr = s.dstAddr := rfl
@[simp] theorem State.finish_srcAddr : (s.finish r).srcAddr = s.srcAddr := rfl
@[simp] theorem State.finish_srcLen : (s.finish r).srcLen = s.srcLen := rfl
@[simp] theorem State.finish_aadAddr : (s.finish r).aadAddr = s.aadAddr := rfl
@[simp] theorem State.finish_aadLen : (s.finish r).aadLen = s.aadLen := rfl
@[simp] theorem State.finish_nonceAddr : (s.finish r).nonceAddr = s.nonceAddr := rfl
@[simp] theorem State.finish_nonceLen : (s.finish r).nonceLen = s.nonceLen := rfl
@[simp] theorem State.finish_outLen : (s.finish r).outLen = s.outLen := rfl
@[simp] theorem State.finish_ctx : (s.finish r).ctx = s.ctx := rfl
@[simp] theorem State.finish_busy : (s.finish r).busy = false := rfl
@[simp] theorem State.finish_fault : (s.finish r).fault = s.fault := rfl
@[simp] theorem State.finish_result : (s.finish r).result = r.code := rfl
@[simp] theorem State.finish_fcause : (s.finish r).fcause = s.fcause := rfl
@[simp] theorem State.finish_cmdl : (s.finish r).cmdl = s.cmdl := rfl
@[simp] theorem State.finish_mem : (s.finish r).mem = s.mem := rfl
@[simp] theorem State.finish_cipher : (s.finish r).cipher = s.cipher := rfl
@[simp] theorem State.finish_requests : (s.finish r).requests = s.requests := rfl
@[simp] theorem State.finish_script : (s.finish r).script = s.script := rfl
@[simp] theorem State.finish_seen : (s.finish r).seen = s.seen := rfl
@[simp] theorem State.finish_claimedReads : (s.finish r).claimedReads = s.claimedReads := rfl
@[simp] theorem State.finish_claimedWrites : (s.finish r).claimedWrites = s.claimedWrites := rfl
@[simp] theorem State.finish_randoms : (s.finish r).randoms = s.randoms := rfl
@[simp] theorem State.finish_draws : (s.finish r).draws = s.draws := rfl
@[simp] theorem State.finish_free : (s.finish r).free = s.free := rfl
end

section
variable (s : State) (v : Word)
@[simp] theorem State.acceptCommand_vregs : (s.acceptCommand v).vregs = s.vregs := rfl
@[simp] theorem State.acceptCommand_cfgNonceSize : (s.acceptCommand v).cfgNonceSize = s.cfgNonceSize := rfl
@[simp] theorem State.acceptCommand_cfgTagSize : (s.acceptCommand v).cfgTagSize = s.cfgTagSize := rfl
@[simp] theorem State.acceptCommand_dstAddr : (s.acceptCommand v).dstAddr = s.dstAddr := rfl
@[simp] theorem State.acceptCommand_srcAddr : (s.acceptCommand v).srcAddr = s.srcAddr := rfl
@[simp] theorem State.acceptCommand_srcLen : (s.acceptCommand v).srcLen = s.srcLen := rfl
@[simp] theorem State.acceptCommand_aadAddr : (s.acceptCommand v).aadAddr = s.aadAddr := rfl
@[simp] theorem State.acceptCommand_aadLen : (s.acceptCommand v).aadLen = s.aadLen := rfl
@[simp] theorem State.acceptCommand_nonceAddr : (s.acceptCommand v).nonceAddr = s.nonceAddr := rfl
@[simp] theorem State.acceptCommand_nonceLen : (s.acceptCommand v).nonceLen = s.nonceLen := rfl
@[simp] theorem State.acceptCommand_outLen : (s.acceptCommand v).outLen = s.outLen := rfl
@[simp] theorem State.acceptCommand_ctx : (s.acceptCommand v).ctx = s.ctx := rfl
@[simp] theorem State.acceptCommand_busy : (s.acceptCommand v).busy = true := rfl
@[simp] theorem State.acceptCommand_fault : (s.acceptCommand v).fault = s.fault := rfl
@[simp] theorem State.acceptCommand_result : (s.acceptCommand v).result = s.result := rfl
@[simp] theorem State.acceptCommand_fcause : (s.acceptCommand v).fcause = s.fcause := rfl
@[simp] theorem State.acceptCommand_cmdl : (s.acceptCommand v).cmdl = v := rfl
@[simp] theorem State.acceptCommand_mem : (s.acceptCommand v).mem = s.mem := rfl
@[simp] theorem State.acceptCommand_cipher : (s.acceptCommand v).cipher = s.cipher := rfl
@[simp] theorem State.acceptCommand_requests : (s.acceptCommand v).requests = s.requests := rfl
@[simp] theorem State.acceptCommand_script : (s.acceptCommand v).script = s.script := rfl
@[simp] theorem State.acceptCommand_seen : (s.acceptCommand v).seen = s.seen := rfl
@[simp] theorem State.acceptCommand_claimedReads : (s.acceptCommand v).claimedReads = wordReads (decode v) s ++ s.claimedReads := rfl
@[simp] theorem State.acceptCommand_claimedWrites : (s.acceptCommand v).claimedWrites = wordWrites (decode v) s ++ s.claimedWrites := rfl
@[simp] theorem State.acceptCommand_randoms : (s.acceptCommand v).randoms = s.randoms := rfl
@[simp] theorem State.acceptCommand_draws : (s.acceptCommand v).draws = s.draws := rfl
@[simp] theorem State.acceptCommand_free : (s.acceptCommand v).free = s.free := rfl
end

section
variable (s : State) (o : Observation)
@[simp] theorem State.observe_vregs : (s.observe o).vregs = s.vregs := rfl
@[simp] theorem State.observe_cfgNonceSize : (s.observe o).cfgNonceSize = s.cfgNonceSize := rfl
@[simp] theorem State.observe_cfgTagSize : (s.observe o).cfgTagSize = s.cfgTagSize := rfl
@[simp] theorem State.observe_dstAddr : (s.observe o).dstAddr = s.dstAddr := rfl
@[simp] theorem State.observe_srcAddr : (s.observe o).srcAddr = s.srcAddr := rfl
@[simp] theorem State.observe_srcLen : (s.observe o).srcLen = s.srcLen := rfl
@[simp] theorem State.observe_aadAddr : (s.observe o).aadAddr = s.aadAddr := rfl
@[simp] theorem State.observe_aadLen : (s.observe o).aadLen = s.aadLen := rfl
@[simp] theorem State.observe_nonceAddr : (s.observe o).nonceAddr = s.nonceAddr := rfl
@[simp] theorem State.observe_nonceLen : (s.observe o).nonceLen = s.nonceLen := rfl
@[simp] theorem State.observe_outLen : (s.observe o).outLen = s.outLen := rfl
@[simp] theorem State.observe_ctx : (s.observe o).ctx = s.ctx := rfl
@[simp] theorem State.observe_busy : (s.observe o).busy = s.busy := rfl
@[simp] theorem State.observe_fault : (s.observe o).fault = s.fault := rfl
@[simp] theorem State.observe_result : (s.observe o).result = s.result := rfl
@[simp] theorem State.observe_fcause : (s.observe o).fcause = s.fcause := rfl
@[simp] theorem State.observe_cmdl : (s.observe o).cmdl = s.cmdl := rfl
@[simp] theorem State.observe_mem : (s.observe o).mem = s.mem := rfl
@[simp] theorem State.observe_cipher : (s.observe o).cipher = s.cipher := rfl
@[simp] theorem State.observe_requests : (s.observe o).requests = s.requests := rfl
@[simp] theorem State.observe_script : (s.observe o).script = s.script := rfl
@[simp] theorem State.observe_seen : (s.observe o).seen = o :: s.seen := rfl
@[simp] theorem State.observe_claimedReads : (s.observe o).claimedReads = s.claimedReads := rfl
@[simp] theorem State.observe_claimedWrites : (s.observe o).claimedWrites = s.claimedWrites := rfl
@[simp] theorem State.observe_randoms : (s.observe o).randoms = s.randoms := rfl
@[simp] theorem State.observe_draws : (s.observe o).draws = s.draws := rfl
@[simp] theorem State.observe_free : (s.observe o).free = s.free := rfl
end

section
variable (s : State)
@[simp] theorem State.release_vregs : (s.release).vregs = s.vregs := rfl
@[simp] theorem State.release_cfgNonceSize : (s.release).cfgNonceSize = s.cfgNonceSize := rfl
@[simp] theorem State.release_cfgTagSize : (s.release).cfgTagSize = s.cfgTagSize := rfl
@[simp] theorem State.release_dstAddr : (s.release).dstAddr = s.dstAddr := rfl
@[simp] theorem State.release_srcAddr : (s.release).srcAddr = s.srcAddr := rfl
@[simp] theorem State.release_srcLen : (s.release).srcLen = s.srcLen := rfl
@[simp] theorem State.release_aadAddr : (s.release).aadAddr = s.aadAddr := rfl
@[simp] theorem State.release_aadLen : (s.release).aadLen = s.aadLen := rfl
@[simp] theorem State.release_nonceAddr : (s.release).nonceAddr = s.nonceAddr := rfl
@[simp] theorem State.release_nonceLen : (s.release).nonceLen = s.nonceLen := rfl
@[simp] theorem State.release_outLen : (s.release).outLen = s.outLen := rfl
@[simp] theorem State.release_ctx : (s.release).ctx = s.ctx := rfl
@[simp] theorem State.release_busy : (s.release).busy = s.busy := rfl
@[simp] theorem State.release_fault : (s.release).fault = s.fault := rfl
@[simp] theorem State.release_result : (s.release).result = s.result := rfl
@[simp] theorem State.release_fcause : (s.release).fcause = s.fcause := rfl
@[simp] theorem State.release_cmdl : (s.release).cmdl = s.cmdl := rfl
@[simp] theorem State.release_mem : (s.release).mem = s.mem := rfl
@[simp] theorem State.release_cipher : (s.release).cipher = s.cipher := rfl
@[simp] theorem State.release_requests : (s.release).requests = s.requests := rfl
@[simp] theorem State.release_script : (s.release).script = s.script := rfl
@[simp] theorem State.release_seen : (s.release).seen = s.seen := rfl
@[simp] theorem State.release_claimedReads : (s.release).claimedReads = [] := rfl
@[simp] theorem State.release_claimedWrites : (s.release).claimedWrites = [] := rfl
@[simp] theorem State.release_randoms : (s.release).randoms = s.randoms := rfl
@[simp] theorem State.release_draws : (s.release).draws = s.draws := rfl
@[simp] theorem State.release_free : (s.release).free = s.free := rfl
end

section
variable (s : State) (n : Nat)
@[simp] theorem State.spend_vregs : (s.spend n).vregs = s.vregs := rfl
@[simp] theorem State.spend_cfgNonceSize : (s.spend n).cfgNonceSize = s.cfgNonceSize := rfl
@[simp] theorem State.spend_cfgTagSize : (s.spend n).cfgTagSize = s.cfgTagSize := rfl
@[simp] theorem State.spend_dstAddr : (s.spend n).dstAddr = s.dstAddr := rfl
@[simp] theorem State.spend_srcAddr : (s.spend n).srcAddr = s.srcAddr := rfl
@[simp] theorem State.spend_srcLen : (s.spend n).srcLen = s.srcLen := rfl
@[simp] theorem State.spend_aadAddr : (s.spend n).aadAddr = s.aadAddr := rfl
@[simp] theorem State.spend_aadLen : (s.spend n).aadLen = s.aadLen := rfl
@[simp] theorem State.spend_nonceAddr : (s.spend n).nonceAddr = s.nonceAddr := rfl
@[simp] theorem State.spend_nonceLen : (s.spend n).nonceLen = s.nonceLen := rfl
@[simp] theorem State.spend_outLen : (s.spend n).outLen = s.outLen := rfl
@[simp] theorem State.spend_ctx : (s.spend n).ctx = s.ctx := rfl
@[simp] theorem State.spend_busy : (s.spend n).busy = s.busy := rfl
@[simp] theorem State.spend_fault : (s.spend n).fault = s.fault := rfl
@[simp] theorem State.spend_result : (s.spend n).result = s.result := rfl
@[simp] theorem State.spend_fcause : (s.spend n).fcause = s.fcause := rfl
@[simp] theorem State.spend_cmdl : (s.spend n).cmdl = s.cmdl := rfl
@[simp] theorem State.spend_mem : (s.spend n).mem = s.mem := rfl
@[simp] theorem State.spend_cipher : (s.spend n).cipher = s.cipher := rfl
@[simp] theorem State.spend_requests : (s.spend n).requests = s.requests := rfl
@[simp] theorem State.spend_script : (s.spend n).script = s.script := rfl
@[simp] theorem State.spend_seen : (s.spend n).seen = s.seen := rfl
@[simp] theorem State.spend_claimedReads : (s.spend n).claimedReads = s.claimedReads := rfl
@[simp] theorem State.spend_claimedWrites : (s.spend n).claimedWrites = s.claimedWrites := rfl
@[simp] theorem State.spend_randoms : (s.spend n).randoms = s.randoms := rfl
@[simp] theorem State.spend_draws : (s.spend n).draws = s.draws := rfl
@[simp] theorem State.spend_free : (s.spend n).free = s.free + n := rfl
end

section
variable (s : State)
@[simp] theorem State.coreReset_vregs : (s.coreReset).vregs = Vector.replicate 8 FieldElement.zero := rfl
@[simp] theorem State.coreReset_cfgNonceSize : (s.coreReset).cfgNonceSize = 0 := rfl
@[simp] theorem State.coreReset_cfgTagSize : (s.coreReset).cfgTagSize = 0 := rfl
@[simp] theorem State.coreReset_dstAddr : (s.coreReset).dstAddr = 0 := rfl
@[simp] theorem State.coreReset_srcAddr : (s.coreReset).srcAddr = 0 := rfl
@[simp] theorem State.coreReset_srcLen : (s.coreReset).srcLen = 0 := rfl
@[simp] theorem State.coreReset_aadAddr : (s.coreReset).aadAddr = 0 := rfl
@[simp] theorem State.coreReset_aadLen : (s.coreReset).aadLen = 0 := rfl
@[simp] theorem State.coreReset_nonceAddr : (s.coreReset).nonceAddr = 0 := rfl
@[simp] theorem State.coreReset_nonceLen : (s.coreReset).nonceLen = 0 := rfl
@[simp] theorem State.coreReset_outLen : (s.coreReset).outLen = 0 := rfl
@[simp] theorem State.coreReset_ctx : (s.coreReset).ctx = Context.clear := rfl
@[simp] theorem State.coreReset_busy : (s.coreReset).busy = false := rfl
@[simp] theorem State.coreReset_fault : (s.coreReset).fault = false := rfl
@[simp] theorem State.coreReset_result : (s.coreReset).result = 0 := rfl
@[simp] theorem State.coreReset_fcause : (s.coreReset).fcause = 0 := rfl
@[simp] theorem State.coreReset_cmdl : (s.coreReset).cmdl = 0 := rfl
@[simp] theorem State.coreReset_mem : (s.coreReset).mem = s.mem := rfl
@[simp] theorem State.coreReset_cipher : (s.coreReset).cipher = s.cipher := rfl
@[simp] theorem State.coreReset_requests : (s.coreReset).requests = s.requests := rfl
@[simp] theorem State.coreReset_script : (s.coreReset).script = s.script := rfl
@[simp] theorem State.coreReset_seen : (s.coreReset).seen = s.seen := rfl
@[simp] theorem State.coreReset_claimedReads : (s.coreReset).claimedReads = s.claimedReads := rfl
@[simp] theorem State.coreReset_claimedWrites : (s.coreReset).claimedWrites = s.claimedWrites := rfl
@[simp] theorem State.coreReset_randoms : (s.coreReset).randoms = s.randoms := rfl
@[simp] theorem State.coreReset_draws : (s.coreReset).draws = s.draws := rfl
@[simp] theorem State.coreReset_free : (s.coreReset).free = s.free := rfl
end

section
variable (s : State) (nbits w : Nat)
@[simp] theorem State.withFetchWord_vregs : (s.withFetchWord nbits w).vregs = s.vregs := rfl
@[simp] theorem State.withFetchWord_cfgNonceSize : (s.withFetchWord nbits w).cfgNonceSize = s.cfgNonceSize := rfl
@[simp] theorem State.withFetchWord_cfgTagSize : (s.withFetchWord nbits w).cfgTagSize = s.cfgTagSize := rfl
@[simp] theorem State.withFetchWord_dstAddr : (s.withFetchWord nbits w).dstAddr = s.dstAddr := rfl
@[simp] theorem State.withFetchWord_srcAddr : (s.withFetchWord nbits w).srcAddr = s.srcAddr := rfl
@[simp] theorem State.withFetchWord_srcLen : (s.withFetchWord nbits w).srcLen = s.srcLen := rfl
@[simp] theorem State.withFetchWord_aadAddr : (s.withFetchWord nbits w).aadAddr = s.aadAddr := rfl
@[simp] theorem State.withFetchWord_aadLen : (s.withFetchWord nbits w).aadLen = s.aadLen := rfl
@[simp] theorem State.withFetchWord_nonceAddr : (s.withFetchWord nbits w).nonceAddr = s.nonceAddr := rfl
@[simp] theorem State.withFetchWord_nonceLen : (s.withFetchWord nbits w).nonceLen = s.nonceLen := rfl
@[simp] theorem State.withFetchWord_outLen : (s.withFetchWord nbits w).outLen = s.outLen := rfl
@[simp] theorem State.withFetchWord_ctx : (s.withFetchWord nbits w).ctx = s.ctx := rfl
@[simp] theorem State.withFetchWord_busy : (s.withFetchWord nbits w).busy = true := rfl
@[simp] theorem State.withFetchWord_fault : (s.withFetchWord nbits w).fault = false := rfl
@[simp] theorem State.withFetchWord_result : (s.withFetchWord nbits w).result = s.result := rfl
@[simp] theorem State.withFetchWord_fcause : (s.withFetchWord nbits w).fcause = s.fcause := rfl
@[simp] theorem State.withFetchWord_cmdl : (s.withFetchWord nbits w).cmdl = tableWord nbits w := rfl
@[simp] theorem State.withFetchWord_mem : (s.withFetchWord nbits w).mem = s.mem := rfl
@[simp] theorem State.withFetchWord_cipher : (s.withFetchWord nbits w).cipher = s.cipher := rfl
@[simp] theorem State.withFetchWord_requests : (s.withFetchWord nbits w).requests = s.requests := rfl
@[simp] theorem State.withFetchWord_script : (s.withFetchWord nbits w).script = [] := rfl
@[simp] theorem State.withFetchWord_seen : (s.withFetchWord nbits w).seen = s.seen := rfl
@[simp] theorem State.withFetchWord_claimedReads : (s.withFetchWord nbits w).claimedReads = s.claimedReads := rfl
@[simp] theorem State.withFetchWord_claimedWrites : (s.withFetchWord nbits w).claimedWrites = s.claimedWrites := rfl
@[simp] theorem State.withFetchWord_randoms : (s.withFetchWord nbits w).randoms = s.randoms := rfl
@[simp] theorem State.withFetchWord_draws : (s.withFetchWord nbits w).draws = s.draws := rfl
@[simp] theorem State.withFetchWord_free : (s.withFetchWord nbits w).free = s.free := rfl
end

end Sys2Proof.Machine
end

