-- ==== Sys2Proof/Laws/Memory.lean ====
section
/-! SUPPORT. Memory: a byte written is the byte read, every other byte stays, and every memory operation keeps the canonical
form. -/

namespace Sys2Proof.Machine

@[simp] theorem Memory.read_nil (a : Nat) : Memory.read [] a = Memory.unlisted := rfl

theorem Memory.read_cons (k : Nat) (v : Byte) (m : Memory) (a : Nat) :
    Memory.read ((k, v) :: m) a = if a = k then v else Memory.read m a := rfl

theorem Memory.read_insert (m : Memory) (a : Nat) (v : Byte) (b : Nat) :
    Memory.read (Memory.insert m a v) b = if b = a then v else Memory.read m b := by
  induction m with
  | nil => rfl
  | cons c m ih =>
    obtain ⟨k, w⟩ := c
    simp only [Memory.insert]
    split
    · rfl
    · split
      · subst_vars
        simp only [Memory.read_cons]
        split <;> rfl
      · simp only [Memory.read_cons, ih]
        grind

theorem Memory.read_filter (m : Memory) (a b : Nat) :
    Memory.read (m.filter (fun c => c.1 ≠ a)) b = if b = a then Memory.unlisted else Memory.read m b := by
  induction m with
  | nil => simp
  | cons c m ih =>
    obtain ⟨k, w⟩ := c
    by_cases h : k = a
    · subst h
      simp only [List.filter_cons, Memory.read_cons]
      grind
    · simp only [List.filter_cons, Memory.read_cons]
      simp only [ne_eq, h, not_false_eq_true, decide_true, ↓reduceIte, Memory.read_cons, ih]
      grind

/-- One byte written: it reads as the value, every other byte as before. -/
theorem Memory.read_write (m : Memory) (a : Nat) (v : Byte) (b : Nat) :
    Memory.read (Memory.write m a v) b = if b = a then v else Memory.read m b := by
  unfold Memory.write
  split
  · next h => rw [Memory.read_filter, h]
  · exact Memory.read_insert m a v b

/-- A byte outside the written string reads as before. -/
theorem Memory.read_writeN_outside (bs : Bytes) (m : Memory) (a b : Nat) (h : b < a ∨ a + bs.length ≤ b) :
    Memory.read (Memory.writeN m a bs) b = Memory.read m b := by
  induction bs generalizing m a with
  | nil => rfl
  | cons v vs ih =>
    simp only [List.length_cons] at h
    rw [Memory.writeN, ih _ _ (by omega), Memory.read_write, if_neg (by omega)]

/-- Byte `i` of the written string is read at the i-th address. -/
theorem Memory.read_writeN_inside (bs : Bytes) (m : Memory) (a i : Nat) (h : i < bs.length) :
    Memory.read (Memory.writeN m a bs) (a + i) = bs[i] := by
  induction bs generalizing m a i with
  | nil => simp at h
  | cons v vs ih =>
    rw [Memory.writeN]
    cases i with
    | zero => rw [Memory.read_writeN_outside _ _ _ _ (by omega), Memory.read_write]; simp
    | succ i =>
      have := ih (Memory.write m a v) (a + 1) i (by simpa using h)
      rw [show a + (i + 1) = a + 1 + i by omega, this]
      rfl

@[simp] theorem Memory.readN_length (n : Nat) (m : Memory) (a : Nat) : (Memory.readN m a n).length = n := by
  induction n generalizing a with
  | zero => rfl
  | succ n ih => simp [Memory.readN, ih]

theorem Memory.readN_getElem (n : Nat) (m : Memory) (a i : Nat) (h : i < (Memory.readN m a n).length) :
    (Memory.readN m a n)[i] = Memory.read m (a + i) := by
  induction n generalizing a i with
  | zero => simp [Memory.readN] at h
  | succ n ih =>
    cases i with
    | zero => rfl
    | succ i =>
      simp only [Memory.readN, List.getElem_cons_succ]
      rw [ih]
      congr 1; omega

/-- Reading back exactly what was written. -/
theorem Memory.readN_writeN (bs : Bytes) (m : Memory) (a : Nat) : Memory.readN (Memory.writeN m a bs) a bs.length = bs := by
  apply List.ext_getElem (by simp)
  intro i h₁ h₂
  rw [Memory.readN_getElem, Memory.read_writeN_inside _ _ _ _ h₂]

/-- Two memories that agree on a region give the same bytes there. -/
theorem Memory.readN_congr (n : Nat) (m m' : Memory) (a : Nat)
    (h : ∀ b, a ≤ b → b < a + n → Memory.read m b = Memory.read m' b) : Memory.readN m a n = Memory.readN m' a n := by
  apply List.ext_getElem (by simp)
  intro i h₁ h₂
  rw [Memory.readN_getElem, Memory.readN_getElem]
  simp only [Memory.readN_length] at h₁
  exact h _ (by omega) (by omega)

/-- What the canonical form says of the first entry. -/
theorem Memory.wfFrom_cons (lo k : Nat) (v : Byte) (m : Memory) :
    Memory.wfFrom lo ((k, v) :: m) = true ↔
      lo ≤ k ∧ k < addressSpace ∧ v ≠ Memory.unlisted ∧ Memory.wfFrom (k + 1) m = true := by
  simp [Memory.wfFrom, and_assoc]

theorem Memory.wfFrom_mono (m : Memory) (lo lo' : Nat) (hle : lo' ≤ lo) (h : Memory.wfFrom lo m = true) :
    Memory.wfFrom lo' m = true := by
  cases m with
  | nil => rfl
  | cons c m =>
    obtain ⟨k, v⟩ := c
    rw [Memory.wfFrom_cons] at h ⊢
    exact ⟨by omega, h.2⟩

theorem Memory.wfFrom_insert (m : Memory) (lo a : Nat) (v : Byte) (hlo : lo ≤ a) (ha : a < addressSpace)
    (hv : v ≠ Memory.unlisted) (h : Memory.wfFrom lo m = true) : Memory.wfFrom lo (Memory.insert m a v) = true := by
  induction m generalizing lo with
  | nil => exact (Memory.wfFrom_cons _ _ _ _).2 ⟨hlo, ha, hv, rfl⟩
  | cons c m ih =>
    obtain ⟨k, w⟩ := c
    have hc := (Memory.wfFrom_cons _ _ _ _).1 h
    simp only [Memory.insert]
    split
    · refine (Memory.wfFrom_cons _ _ _ _).2 ⟨hlo, ha, hv, (Memory.wfFrom_cons _ _ _ _).2 ⟨by omega, hc.2⟩⟩
    · split
      · subst_vars
        exact (Memory.wfFrom_cons _ _ _ _).2 ⟨hlo, ha, hv, hc.2.2.2⟩
      · exact (Memory.wfFrom_cons _ _ _ _).2 ⟨hc.1, hc.2.1, hc.2.2.1, ih _ (by omega) hc.2.2.2⟩

theorem Memory.wfFrom_filter (m : Memory) (lo a : Nat) (h : Memory.wfFrom lo m = true) :
    Memory.wfFrom lo (m.filter (fun c => c.1 ≠ a)) = true := by
  induction m generalizing lo with
  | nil => rfl
  | cons c m ih =>
    obtain ⟨k, w⟩ := c
    have hc := (Memory.wfFrom_cons _ _ _ _).1 h
    rw [List.filter_cons]
    split
    · exact (Memory.wfFrom_cons _ _ _ _).2 ⟨hc.1, hc.2.1, hc.2.2.1, ih _ hc.2.2.2⟩
    · exact Memory.wfFrom_mono _ _ _ (by omega) (ih _ hc.2.2.2)

/-- Writing a byte of the address space keeps the canonical form. -/
theorem Memory.wf_write (m : Memory) (a : Nat) (v : Byte) (ha : a < addressSpace) (h : Memory.wf m = true) :
    Memory.wf (Memory.write m a v) = true := by
  unfold Memory.write
  split
  · exact Memory.wfFrom_filter m 0 a h
  · next hv => exact Memory.wfFrom_insert m 0 a v (Nat.zero_le _) ha hv h

/-- Writing a string that lies in the address space keeps the canonical form. -/
theorem Memory.wf_writeN (bs : Bytes) (m : Memory) (a : Nat) (ha : a + bs.length ≤ addressSpace) (h : Memory.wf m = true) :
    Memory.wf (Memory.writeN m a bs) = true := by
  induction bs generalizing m a with
  | nil => exact h
  | cons v vs ih =>
    simp only [List.length_cons] at ha
    exact ih _ _ (by omega) (Memory.wf_write m a v (by omega) h)

/-- Memory right after reset is in canonical form. -/
theorem Memory.wf_reset : Memory.wf State.reset.mem = true := rfl

theorem Memory.read_eq_of_lt (m : Memory) (lo a : Nat) (h : Memory.wfFrom lo m = true) (ha : a < lo) :
    Memory.read m a = Memory.unlisted := by
  induction m generalizing lo with
  | nil => rfl
  | cons c m ih =>
    obtain ⟨k, w⟩ := c
    have hc := (Memory.wfFrom_cons _ _ _ _).1 h
    rw [Memory.read_cons, if_neg (by omega)]
    exact ih _ hc.2.2.2 (by omega)

/-- The form is canonical: two memories in it that read alike everywhere are the same data. -/
theorem Memory.ext_of_wf (m m' : Memory) (lo : Nat) (h : Memory.wfFrom lo m = true) (h' : Memory.wfFrom lo m' = true)
    (hr : ∀ a, Memory.read m a = Memory.read m' a) : m = m' := by
  induction m generalizing lo m' with
  | nil =>
    cases m' with
    | nil => rfl
    | cons c m' =>
      obtain ⟨k, w⟩ := c
      have hc := (Memory.wfFrom_cons _ _ _ _).1 h'
      exact absurd (by simpa [Memory.read_cons] using (hr k).symm) hc.2.2.1
  | cons c m ih =>
    obtain ⟨k, w⟩ := c
    have hc := (Memory.wfFrom_cons _ _ _ _).1 h
    cases m' with
    | nil => exact absurd (by simpa [Memory.read_cons] using hr k) hc.2.2.1
    | cons c' m' =>
      obtain ⟨k', w'⟩ := c'
      have hc' := (Memory.wfFrom_cons _ _ _ _).1 h'
      have hkk : k = k' := by
        rcases Nat.lt_trichotomy k k' with hlt | heq | hgt
        · have := hr k
          rw [Memory.read_cons, if_pos rfl, Memory.read_cons, if_neg (by omega),
            Memory.read_eq_of_lt m' _ k hc'.2.2.2 (by omega)] at this
          exact absurd this hc.2.2.1
        · exact heq
        · have := hr k'
          rw [Memory.read_cons, if_neg (by omega), Memory.read_cons, if_pos rfl,
            Memory.read_eq_of_lt m _ k' hc.2.2.2 (by omega)] at this
          exact absurd this.symm hc'.2.2.1
      subst hkk
      have hww : w = w' := by simpa [Memory.read_cons] using hr k
      subst hww
      rw [ih m' (k + 1) hc.2.2.2 hc'.2.2.2]
      intro a
      by_cases hak : a < k + 1
      · rw [Memory.read_eq_of_lt m _ a hc.2.2.2 hak, Memory.read_eq_of_lt m' _ a hc'.2.2.2 hak]
      · have := hr a
        rwa [Memory.read_cons, if_neg (by omega), Memory.read_cons, if_neg (by omega)] at this

end Sys2Proof.Machine
end

