-- ==== Sys2Proof/Laws/Strings.lean ====
section
/-! SUPPORT. Byte strings, blocks and the functions over them: lengths, and the conversions undone. -/

namespace Sys2Proof.Machine

@[simp] theorem zeros_length (n : Nat) : (zeros n).length = n := by simp [zeros]

@[simp] theorem bytes8_length (v : Word) : (bytes8 v).length = 8 := rfl

@[simp] theorem bytes4_length (v : BitVec 32) : (bytes4 v).length = 4 := rfl

@[simp] theorem toBytes_length (x : FieldElement) : (toBytes x).length = 16 := rfl

@[simp] theorem bytes12_length (v : BitVec 96) : (bytes12 v).length = 12 := rfl

@[simp] theorem xorBytes_length (a b : Bytes) : (xorBytes a b).length = min a.length b.length := by simp [xorBytes]

/-- `BE64(BYTES8(v)) = v` (00_scope R11). -/
theorem be64_bytes8 (v : Word) : be64 (bytes8 v) = v := by
  simp only [be64, bytes8, List.getD_cons_zero, List.getD_cons_succ]
  ext i hi
  simp only [BitVec.getElem_append, BitVec.getElem_extractLsb']
  grind

/-- `BE32(BYTES4(v)) = v` (00_scope R11). -/
theorem be32_bytes4 (v : BitVec 32) : be32 (bytes4 v) = v := by
  simp only [be32, bytes4, List.getD_cons_zero, List.getD_cons_succ]
  ext i hi
  simp only [BitVec.getElem_append, BitVec.getElem_extractLsb']
  grind

/-- `FromBytes(ToBytes(x)) = x` (00_scope R12). -/
@[simp] theorem fromBytes_toBytes (x : FieldElement) : fromBytes (toBytes x) = x := by
  have h1 : (toBytes x).take 8 = bytes8 x.low := rfl
  have h2 : (toBytes x).drop 8 = bytes8 x.high := rfl
  simp only [fromBytes, h1, h2, be64_bytes8]

/-- A byte string of length 8 is `BYTES8` of its `BE64`. -/
theorem bytes8_be64 (b : Bytes) (h : b.length = 8) : bytes8 (be64 b) = b := by
  match b, h with
  | [b0, b1, b2, b3, b4, b5, b6, b7], _ =>
    simp only [be64, bytes8, List.getD_cons_zero, List.getD_cons_succ, List.cons.injEq, and_true]
    refine ⟨?_, ?_, ?_, ?_, ?_, ?_, ?_, ?_⟩ <;>
    · ext i hi
      simp only [BitVec.getElem_extractLsb', BitVec.getLsbD_append]
      grind

/-- `ToBytes(FromBytes(b)) = b` for a block (00_scope R12). -/
theorem toBytes_fromBytes (b : Bytes) (h : b.length = 16) : toBytes (fromBytes b) = b := by
  simp only [toBytes, fromBytes]
  rw [bytes8_be64 _ (by simp [h]), bytes8_be64 _ (by simp [h]), List.take_append_drop]

@[simp] theorem xorBytes_nil_left (b : Bytes) : xorBytes [] b = [] := rfl

/-- The same mask twice gives the string back, where the mask is long enough. -/
theorem xorBytes_cancel (a m : Bytes) (h : a.length ≤ m.length) : xorBytes (xorBytes a m) m = a := by
  induction a generalizing m with
  | nil => rfl
  | cons x a ih =>
    cases m with
    | nil => simp at h
    | cons y m =>
      simp only [xorBytes, List.zipWith_cons_cons, List.cons.injEq]
      refine ⟨?_, ih m (by simpa using h)⟩
      rw [BitVec.xor_assoc, BitVec.xor_self, BitVec.xor_zero]

theorem inc32_length (c : Bytes) (h : c.length = 16) : (inc32 c).length = 16 := by simp [inc32, h]

theorem incBy_length (k : Nat) (c : Bytes) (h : c.length = 16) : (incBy k c).length = 16 := by
  induction k generalizing c with
  | zero => exact h
  | succ k ih => exact ih _ (inc32_length c h)

@[simp] theorem counterBlocks_length (k : Nat) (c : Bytes) : (counterBlocks k c).length = k := by
  induction k generalizing c with
  | zero => rfl
  | succ k ih => simp [counterBlocks, ih]

/-- A run of enough chunks gives one output byte per input byte, for masks of 16 bytes. -/
theorem keystreamXor_length (E : Bytes → Bytes) (hE : ∀ b, (E b).length = 16) (k : Nat) (inp c : Bytes)
    (h : inp.length ≤ 16 * k) : (keystreamXor E k inp c).length = inp.length := by
  induction k generalizing inp c with
  | zero => simp_all [keystreamXor]
  | succ k ih =>
    simp only [keystreamXor, List.length_append, xorBytes_length, List.length_take, hE]
    rw [ih _ _ (by simp; omega)]
    simp only [List.length_drop]; omega

theorem chunks_enough (n : Nat) : n ≤ 16 * chunks n := by unfold chunks; omega

theorem counterCrypt_length (E : Bytes → Bytes) (hE : ∀ b, (E b).length = 16) (inp c : Bytes) :
    (counterCrypt E inp c).1.length = inp.length := keystreamXor_length E hE _ _ _ (chunks_enough _)

theorem authTag_length (ct aad mask : Bytes) (t : Table) (h : mask.length = 16) : (authTag ct aad mask t).length = 16 := by
  simp [authTag, h]

theorem deriveCounter_length (nonce : Bytes) (t : Table) : (deriveCounter nonce t).length = 16 := by
  unfold deriveCounter
  split <;> simp_all

theorem gcmSeal_length (E : Bytes → Bytes) (hE : ∀ b, (E b).length = 16) (t : Table) (ts : Nat) (nonce pt aad : Bytes) :
    (gcmSeal E t ts nonce pt aad).length = pt.length + min ts 16 := by
  simp [gcmSeal, counterCrypt_length E hE, authTag_length _ _ _ _ (hE _)]

/-- When Open accepts: the presented tag is the expected one, and the answer is the decrypted body. -/
theorem gcmOpen_some (E : Bytes → Bytes) (t : Table) (ts : Nat) (nonce c aad pt : Bytes)
    (h : gcmOpen E t ts nonce c aad = some pt) :
    ts ≤ c.length ∧ c.length ≤ cap + ts ∧
      expectedTag E t ts nonce (c.take (c.length - ts)) aad = c.drop (c.length - ts) ∧
      pt = (counterCrypt E (c.take (c.length - ts)) (inc32 (deriveCounter nonce t))).1 := by
  unfold gcmOpen at h
  split at h
  · simp at h
  · next hlen =>
    simp only [not_or, not_lt, gt_iff_lt] at hlen
    simp only at h
    split at h
    · next heq =>
      exact ⟨hlen.1, hlen.2, by simpa [constantTimeEq] using heq, by simpa using h.symm⟩
    · simp at h

end Sys2Proof.Machine
end

