-- ==== Sys2Proof/Laws/Ops.lean ====
section
/-! SUPPORT. What each shared operation can do, said once. -/

namespace Sys2Proof.Machine

@[simp] theorem firstFailed_nil : firstFailed [] = none := rfl

@[simp] theorem firstFailed_cons (b : Bool) (c : Cause) (rest : List (Bool × Cause)) :
    firstFailed ((b, c) :: rest) = if b then some c else firstFailed rest := by cases b <;> rfl

/-- All that a guarded command can do. -/
theorem guarded_cases (tests : List (Bool × Cause)) (s : State) (work : State → Out) :
    (∃ c, firstFailed tests = some c ∧ guarded tests s work = .next (s.raiseFatal c)) ∨
      (firstFailed tests = none ∧ guarded tests s work = work s) := by
  unfold guarded
  cases h : firstFailed tests with
  | none => exact .inr ⟨rfl, rfl⟩
  | some c => exact .inl ⟨c, rfl, rfl⟩

theorem guarded_of_none {tests : List (Bool × Cause)} (h : firstFailed tests = none) (s : State) (work : State → Out) :
    guarded tests s work = work s := by simp [guarded, h]

theorem guarded_of_some {tests : List (Bool × Cause)} {c : Cause} (h : firstFailed tests = some c) (s : State)
    (work : State → Out) : guarded tests s work = .next (s.raiseFatal c) := by simp [guarded, h]

/-- Two legal register fields with the same number are the same field. -/
theorem regIndex_inj : ∀ r q : RegField, RegField.ok r = true → RegField.ok q = true → regIndex r = regIndex q → r = q := by
  decide

theorem getV_setV_same (s : State) (r : RegField) (x : FieldElement) : (s.setV r x).getV r = x := by
  simp [State.getV]

theorem getV_setV_other (s : State) (r q : RegField) (x : FieldElement) (hr : RegField.ok r = true)
    (hq : RegField.ok q = true) (h : q ≠ r) : (s.setV r x).getV q = s.getV q := by
  have : (regIndex r).val ≠ (regIndex q).val := fun e => h (regIndex_inj q r hq hr (Fin.ext e.symm))
  simp [State.getV, this]

/-- A register is a function of the register file alone. -/
theorem getV_congr (s t : State) (r : RegField) (h : t.vregs = s.vregs) : t.getV r = s.getV r := by
  unfold State.getV; rw [h]

@[simp] theorem encrypt_length (c : Cipher) (b : Bytes) : (c.encrypt b).length = 16 := rfl

@[simp] theorem bytesOf_length (s : State) (r : Region) : (s.bytesOf r).length = r.len := by simp [State.bytesOf]

/-- A byte outside the bytes stored at DST_ADDR reads as before. -/
theorem read_store_outside (s : State) (out : Bytes) (a : Nat)
    (h : a < s.dstAddr.toNat ∨ s.dstAddr.toNat + out.length ≤ a) :
    Memory.read (s.store out).mem a = Memory.read s.mem a := Memory.read_writeN_outside out s.mem _ a h

/-- The bytes stored at DST_ADDR are read back. -/
theorem readN_store (s : State) (out : Bytes) : Memory.readN (s.store out).mem s.dstAddr.toNat out.length = out :=
  Memory.readN_writeN out s.mem _

/-- All that the core's turn can do. -/
theorem coreTurn_cases (s : State) :
    (phase s = .busy ∧ (∃ i, decode s.cmdl = .ok i ∧ coreTurn s = exec i s)) ∨
      (phase s = .busy ∧ (∃ e, decode s.cmdl = .error e) ∧ coreTurn s = .next (s.raiseFatal .illegalCmd)) ∨
      (phase s ≠ .busy ∧ coreTurn s = .next s) := by
  unfold coreTurn commandStep
  by_cases h : phase s = .busy
  · cases hd : decode s.cmdl with
    | ok i => exact .inl ⟨h, i, rfl, by simp [h]⟩
    | error e => exact .inr (.inl ⟨h, ⟨e, rfl⟩, by simp [h]⟩)
  · exact .inr (.inr ⟨h, by simp [h]⟩)

theorem Region.inside_eq_len {r : Region} (h : r.addr + r.len ≤ addressSpace) : r.inside = r.len := by
  rw [Region.inside, Nat.min_eq_left h, Nat.add_sub_cancel_left]

/-- A region in range has no byte past the top (20_memory R65). -/
theorem Region.beyond_eq_zero {r : Region} (h : r.addr + r.len ≤ addressSpace) : r.beyond = 0 := by
  rw [Region.beyond, Region.inside_eq_len h, Nat.sub_self]

/-- The bytes of a region that lie in the address space end there. -/
theorem Region.addr_add_inside_le {r : Region} (h : r.addr ≤ addressSpace) : r.addr + r.inside ≤ addressSpace := by
  unfold Region.inside; omega

/-- In range, what the host reads is memory's bytes (20_memory R61). -/
theorem State.hostBytes_eq {s : State} {r : Region} (h : r.addr + r.len ≤ addressSpace) :
    s.hostBytes r = Memory.readN s.mem r.addr r.len := by
  simp [State.hostBytes, Region.beyond_eq_zero h, Region.inside_eq_len h]

/-- Bytes land at addresses of the space only. -/
theorem landings_lt (k : Nat) (bs : Bytes) : ∀ c ∈ landings k bs, c.1 < addressSpace := by
  induction bs generalizing k with
  | nil => exact fun c h => nomatch h
  | cons v vs ih =>
    intro c h
    unfold landings at h
    split at h
    · next a _ =>
      rcases List.mem_cons.1 h with rfl | h
      · exact a.isLt
      · exact ih _ c h
    · exact ih _ c h

/-- Bytes written one by one inside the address space keep the canonical form. -/
theorem Memory.wf_scatter (cs : List Host.Cell) (m : Memory) (hc : ∀ c ∈ cs, c.1 < addressSpace) (h : Memory.wf m = true) :
    Memory.wf (m.scatter cs) = true := by
  induction cs generalizing m with
  | nil => exact h
  | cons c cs ih =>
    exact ih _ (fun d hd => hc d (List.mem_cons_of_mem _ hd)) (Memory.wf_write m c.1 c.2 (hc c List.mem_cons_self) h)

/-- All that a host write to memory can do when it answers a next state. -/
theorem hostWriteMem_next {addr : Word} {bytes : Bytes} {s t : State} (h : hostWriteMem addr bytes s = .next t) :
    let r : Region := { addr := addr.toNat, len := bytes.length }
    t = (({ s with
      mem := (Memory.writeN s.mem addr.toNat (bytes.take r.inside)).scatter (landings s.free (bytes.drop r.inside)) } :
        State).spend r.beyond) := by
  unfold hostWriteMem at h
  dsimp only at h
  split at h
  · cases h
  · cases h; rfl

/-- In range, it writes the bytes where they go and nothing else (20_memory R62). -/
theorem hostWriteMem_next_inRange {addr : Word} {bytes : Bytes} {s t : State} (h : hostWriteMem addr bytes s = .next t)
    (hr : addr.toNat + bytes.length ≤ addressSpace) : t = { s with mem := Memory.writeN s.mem addr.toNat bytes } := by
  rw [hostWriteMem_next h, Region.inside_eq_len hr, Region.beyond_eq_zero hr, List.take_length, List.drop_length]
  rfl

/-- It keeps the canonical form of memory, past the top too. -/
theorem hostWriteMem_wf {addr : Word} {bytes : Bytes} {s t : State} (h : hostWriteMem addr bytes s = .next t)
    (hm : Memory.wf s.mem = true) : Memory.wf t.mem = true := by
  have ha : addr.toNat ≤ addressSpace := Nat.le_of_lt addr.isLt
  have hi := Region.addr_add_inside_le (r := { addr := addr.toNat, len := bytes.length }) ha
  rw [hostWriteMem_next h]
  dsimp only [State.spend_mem]
  apply Memory.wf_scatter _ _ (landings_lt _ _)
  apply Memory.wf_writeN _ _ _ _ hm
  rw [List.length_take]
  exact Nat.le_trans (Nat.add_le_add_left (Nat.min_le_left _ _) _) hi

/-- All that a host read of memory can do when it answers a next state. -/
theorem hostReadMem_next {addr : Word} {len : Nat} {s t : State} (h : hostReadMem addr len s = .next t) :
    let r : Region := { addr := addr.toNat, len := len }
    t = (s.observe (.mem addr (s.hostBytes r))).spend r.beyond := by
  unfold hostReadMem at h
  dsimp only at h
  split at h
  · cases h
  · cases h; rfl

/-- All that RSEAL can do when it answers a next state: abort, or put its expansion on the script. -/
theorem hostRseal_next {dst nlen src len aad alen : Word} {s t : State} (h : hostRseal dst nlen src len aad alen s = .next t) :
    t = s.observe .hostAbort ∨
      (s.wrapperReady = true ∧
        t = (({ s with script := rsealEvents s dst src len aad alen ++ s.script, draws := s.draws + 1 } : State).spend
          (rsealFree src len))) := by
  unfold hostRseal at h
  split_ifs at h with h1 h2
  · cases h; exact .inl rfl
  · cases h; exact .inr ⟨by simpa using h2, rfl⟩

/-- All that ROPEN can do when it answers a next state. -/
theorem hostRopen_next {dst nlen src len aad alen : Word} {s t : State} (h : hostRopen dst nlen src len aad alen s = .next t) :
    t = s.observe .hostAbort ∨ t = s.observe .authenticationFailed ∨
      (s.wrapperReady = true ∧
        t = (({ s with
          script := wrapperCommand src (s.plusNonce src) (len - 12) aad alen dst .openMsg ++ s.script } : State).spend 1)) := by
  unfold hostRopen at h
  split_ifs at h with h1 h2 h3
  · cases h; exact .inl rfl
  · cases h; exact .inr (.inl rfl)
  · cases h; exact .inr (.inr ⟨by simpa using h3, rfl⟩)

/-- The sum is the one a 64-bit register holds, where there is one (45_random_nonce R232, R234). -/
theorem State.plusNonce_eq {s : State} {a : Word} (h : a.toNat + 12 < addressSpace) : s.plusNonce a = a + 12 := if_pos h

/-- The context the wrapper requires, field by field (45_random_nonce R230). -/
theorem State.wrapperReady_iff (s : State) :
    s.wrapperReady = true ↔ s.ctx.valid = true ∧ s.ctx.nonceSize.toNat = 12 ∧ s.ctx.tagSize.toNat = 16 := by
  simp only [State.wrapperReady, Bool.and_eq_true, decide_eq_true_eq, and_assoc]
  exact Iff.rfl

/-- All that a host register write can do: nothing, a reset, the acceptance of a command, or one operand written. -/
theorem writeReg_cases (s : State) (r : HostReg) (v : Word) :
    s.writeReg r v = s ∨ s.writeReg r v = s.coreReset ∨
      (phase s = .idle ∧ s.writeReg r v = s.acceptCommand v) ∨ (phase s ≠ .busy ∧ s.writeReg r v = s.writeOperand r v) := by
  unfold State.writeReg
  split
  · split
    · exact .inr (.inl rfl)
    · exact .inl rfl
  · split
    · exact .inl rfl
    · next hb =>
      split
      · split
        · next hi => exact .inr (.inr (.inl ⟨hi, rfl⟩))
        · exact .inl rfl
      · exact .inr (.inr (.inr ⟨hb, rfl⟩))

end Sys2Proof.Machine
end

