-- ==== Sys2Proof/Laws/Operands.lean ====
section
/-! SUPPORT. What each test on the operands decides, as a proposition about numbers. -/

namespace Sys2Proof.Machine

@[simp] theorem regsIllegal_eq_false (rs : List RegField) : regsIllegal rs = false ↔ ∀ r ∈ rs, RegField.ok r = true := by
  simp [regsIllegal]

@[simp] theorem regsIllegal_eq_true (rs : List RegField) : regsIllegal rs = true ↔ ∃ r ∈ rs, RegField.ok r = false := by
  simp [regsIllegal]

/-- A register field is legal exactly when it names a register 0 to 7 (30_encoding R91). -/
theorem ok_iff_le_seven : ∀ r : RegField, RegField.ok r = true ↔ r.toNat ≤ 7 := by decide

/-- In range: the end does not pass 2^64 (20_memory R65). -/
theorem Region.inRange_iff (r : Region) : r.inRange = true ↔ r.addr + r.len ≤ 2 ^ 64 := by
  simp only [Region.inRange, decide_eq_true_eq]
  exact Iff.rfl

/-- Shared addresses, by the ends of the regions (20_memory R66). -/
theorem anyOverlap_iff (a b : Region) :
    anyOverlap a b = true ↔ 0 < a.len ∧ 0 < b.len ∧ a.addr < b.addr + b.len ∧ b.addr < a.addr + a.len := by
  simp only [anyOverlap, Bool.and_eq_true, decide_eq_true_eq, and_assoc]

theorem inexactOverlap_iff (a b : Region) : inexactOverlap a b = true ↔ anyOverlap a b = true ∧ a.addr ≠ b.addr := by
  simp only [inexactOverlap, Bool.and_eq_true, decide_eq_true_eq]

theorem Region.has_iff (r : Region) (a : Nat) : r.has a = true ↔ r.addr ≤ a ∧ a < r.addr + r.len := by
  simp only [Region.has, Bool.and_eq_true, decide_eq_true_eq]

theorem testRange_iff (rs : List Region) : (testRange rs).1 = true ↔ ∃ r ∈ rs, 2 ^ 64 < r.addr + r.len := by
  have h : ∀ r : Region, r.inRange = false ↔ 2 ^ 64 < r.addr + r.len := fun r => by
    rw [← Bool.not_eq_true, Region.inRange_iff, not_le]
  simp only [testRange, Bool.not_eq_true', List.all_eq_false, Bool.not_eq_true, h]

theorem testNotReady_iff (s : State) : (testNotReady s).1 = true ↔ s.ctx.valid = false := by simp [testNotReady]

theorem testNonceLen_iff (s : State) : (testNonceLen s).1 = true ↔ s.nonceLen ≠ s.ctx.nonceSize := by simp [testNonceLen]

theorem testMsgTooLarge_iff (s : State) : (testMsgTooLarge s).1 = true ↔ cap < s.srcLen.toNat := by simp [testMsgTooLarge]

theorem testAadTooLarge_iff (s : State) : (testAadTooLarge s).1 = true ↔ bitLenBound ≤ s.aadLen.toNat := by
  simp [testAadTooLarge]

theorem openLengthBad_iff (s : State) :
    openLengthBad s = true ↔ s.srcLen.toNat < s.ts ∨ cap + s.ts < s.srcLen.toNat := by
  simp only [openLengthBad, Bool.or_eq_true, decide_eq_true_eq]

end Sys2Proof.Machine
end

