-- ==== Sys2Proof/Laws/HostPort.lean ====
section
/-! SUPPORT. The register map: which number names which register, and that no register has two numbers. -/

namespace Sys2Proof.Machine

/-- Register numbers from 0x20 up are reserved (10_state R23). -/
theorem hostReg_of_ge (n : Nat) (h : 0x20 ≤ n) : hostReg n = .reserved := by
  simp (disch := omega) only [hostReg, if_neg, dif_neg]

theorem hostReg_ctrl_iff (n : Nat) : hostReg n = .ctrl ↔ n = 0x02 := by
  have h : ∀ n < 0x20, hostReg n = .ctrl ↔ n = 0x02 := by decide
  by_cases hn : n < 0x20
  · exact h n hn
  · rw [hostReg_of_ge n (by omega)]
    exact ⟨(fun e => nomatch e), fun e => absurd e (by omega)⟩

theorem hostReg_cmd_iff (n : Nat) : hostReg n = .cmd ↔ n = 0x00 := by
  have h : ∀ n < 0x20, hostReg n = .cmd ↔ n = 0x00 := by decide
  by_cases hn : n < 0x20
  · exact h n hn
  · rw [hostReg_of_ge n (by omega)]
    exact ⟨(fun e => nomatch e), fun e => absurd e (by omega)⟩

theorem hostReg_status_iff (n : Nat) : hostReg n = .status ↔ n = 0x01 := by
  have h : ∀ n < 0x20, hostReg n = .status ↔ n = 0x01 := by decide
  by_cases hn : n < 0x20
  · exact h n hn
  · rw [hostReg_of_ge n (by omega)]
    exact ⟨(fun e => nomatch e), fun e => absurd e (by omega)⟩

theorem hostReg_reserved_iff (n : Nat) : hostReg n = .reserved ↔ n = 0x03 ∨ 0x20 ≤ n := by
  have h : ∀ n < 0x20, hostReg n = .reserved ↔ n = 0x03 ∨ 0x20 ≤ n := by decide
  by_cases hn : n < 0x20
  · exact h n hn
  · exact ⟨fun _ => .inr (by omega), fun _ => hostReg_of_ge n (by omega)⟩

/-- No register has two numbers (10_state R23). -/
theorem hostReg_inj (n m : Nat) (h : hostReg n = hostReg m) (hr : hostReg n ≠ .reserved) : n = m := by
  have hn : n < 0x20 := by
    by_contra hc
    exact hr (hostReg_of_ge n (by omega))
  have hm : m < 0x20 := by
    by_contra hc
    exact hr (h ▸ hostReg_of_ge m (by omega))
  have key : ∀ n < 0x20, ∀ m < 0x20, hostReg n = hostReg m → hostReg n ≠ .reserved → n = m := by decide
  exact key n hn m hm h hr

end Sys2Proof.Machine
end

