-- ==== Sys2Proof/Laws/PerInstr.lean ====
section
/-! SUPPORT. Facts about every command as syntax, one lemma per constructor. -/

namespace Sys2Proof.Laws

/-- The word of a well-formed command lies in its own row of the opcode table (30_encoding R95). -/
def MatchesRow.Statement (i : Instr) : Prop := i.wellFormed = true → encode i &&& i.rowMask = i.rowMatch

theorem MatchesRow.fadd (vd va vb : RegField) : MatchesRow.Statement (.fadd vd va vb) := by
  revert vd va vb; unfold MatchesRow.Statement; decide +kernel

theorem MatchesRow.fdbl (vd va : RegField) : MatchesRow.Statement (.fdbl vd va) := by
  revert vd va; unfold MatchesRow.Statement; decide +kernel

theorem MatchesRow.fmul (vd va : RegField) : MatchesRow.Statement (.fmul vd va) := by
  revert vd va; unfold MatchesRow.Statement; decide +kernel

theorem MatchesRow.ghupd (vd : RegField) : MatchesRow.Statement (.ghupd vd) := by
  revert vd; unfold MatchesRow.Statement; decide +kernel

theorem MatchesRow.ctrx (vd : RegField) : MatchesRow.Statement (.ctrx vd) := by
  revert vd; unfold MatchesRow.Statement; decide +kernel

theorem MatchesRow.cenc (vd va : RegField) : MatchesRow.Statement (.cenc vd va) := by
  revert vd va; unfold MatchesRow.Statement; decide +kernel

theorem MatchesRow.cinc (vd va : RegField) : MatchesRow.Statement (.cinc vd va) := by
  revert vd va; unfold MatchesRow.Statement; decide +kernel

theorem MatchesRow.initCtx : MatchesRow.Statement .initCtx := by unfold MatchesRow.Statement; decide +kernel

theorem MatchesRow.sealMsg : MatchesRow.Statement .sealMsg := by unfold MatchesRow.Statement; decide +kernel

theorem MatchesRow.openMsg : MatchesRow.Statement .openMsg := by unfold MatchesRow.Statement; decide +kernel

theorem MatchesRow.derive (vd : RegField) : MatchesRow.Statement (.derive vd) := by
  revert vd; unfold MatchesRow.Statement; decide +kernel

theorem MatchesRow.auth (vd va : RegField) : MatchesRow.Statement (.auth vd va) := by
  revert vd va; unfold MatchesRow.Statement; decide +kernel

end Sys2Proof.Laws
end

