-- ==== Sys2Proof/Tests/Slice0.lean ====
section
/-! SUPPORT. Tests of the model on the spec's own examples, and for each statement with hypotheses a state that meets them. -/

namespace Sys2Proof.Tests

set_option Elab.async false

open Machine Reference

/-! ### Well-formedness: each register field refused with a number above 7 -/

theorem test_wf_refuses_fadd :
    [Instr.fadd 8 0 0, .fadd 0 8 0, .fadd 0 0 8, .fadd 15 15 15].all (fun i => !i.wellFormed) = true := by decide

theorem test_wf_refuses_fdbl : [Instr.fdbl 8 0, .fdbl 0 8].all (fun i => !i.wellFormed) = true := by decide

theorem test_wf_refuses_fmul : [Instr.fmul 8 0, .fmul 0 8].all (fun i => !i.wellFormed) = true := by decide

theorem test_wf_refuses_ghupd : [Instr.ghupd 8, .ghupd 15].all (fun i => !i.wellFormed) = true := by decide

theorem test_wf_refuses_ctrx : [Instr.ctrx 8, .ctrx 15].all (fun i => !i.wellFormed) = true := by decide

theorem test_wf_refuses_cenc : [Instr.cenc 8 0, .cenc 0 8].all (fun i => !i.wellFormed) = true := by decide

theorem test_wf_refuses_cinc : [Instr.cinc 8 0, .cinc 0 8].all (fun i => !i.wellFormed) = true := by decide

theorem test_wf_refuses_derive : [Instr.derive 8, .derive 15].all (fun i => !i.wellFormed) = true := by decide

theorem test_wf_refuses_auth : [Instr.auth 8 0, .auth 0 8].all (fun i => !i.wellFormed) = true := by decide

theorem test_wf_accepts :
    [Instr.fadd 7 7 7, .fdbl 7 7, .fmul 7 7, .ghupd 7, .ctrx 7, .cenc 7 7, .cinc 7 7, .initCtx, .sealMsg, .openMsg, .derive 7,
      .auth 7 7].all Instr.wellFormed = true := by decide

/-! ### Decoding: words written out field by field, `ZERO VB VA VD OP` (30_encoding R91, R92, R95) -/

theorem test_decode_fadd :
    decode (0#44 ++ 0b0001#4 ++ 0b0000#4 ++ 0b0010#4 ++ 0b00010000#8) = .ok (.fadd 2 0 1) := by decide

theorem test_decode_fdbl :
    decode (0#44 ++ 0b0000#4 ++ 0b0101#4 ++ 0b0011#4 ++ 0b00010001#8) = .ok (.fdbl 3 5) := by decide

theorem test_decode_fmul :
    decode (0#44 ++ 0b0000#4 ++ 0b0111#4 ++ 0b0001#4 ++ 0b00010010#8) = .ok (.fmul 1 7) := by decide

theorem test_decode_ghupd :
    decode (0#44 ++ 0b0000#4 ++ 0b0000#4 ++ 0b0100#4 ++ 0b00100000#8) = .ok (.ghupd 4) := by decide

theorem test_decode_ctrx :
    decode (0#44 ++ 0b0000#4 ++ 0b0000#4 ++ 0b0110#4 ++ 0b00110000#8) = .ok (.ctrx 6) := by decide

theorem test_decode_cenc :
    decode (0#44 ++ 0b0000#4 ++ 0b0001#4 ++ 0b0010#4 ++ 0b00110001#8) = .ok (.cenc 2 1) := by decide

theorem test_decode_cinc :
    decode (0#44 ++ 0b0000#4 ++ 0b0110#4 ++ 0b0011#4 ++ 0b00110010#8) = .ok (.cinc 3 6) := by decide

theorem test_decode_init :
    decode (0#44 ++ 0b0000#4 ++ 0b0000#4 ++ 0b0000#4 ++ 0b01000000#8) = .ok .initCtx := by decide

theorem test_decode_seal :
    decode (0#44 ++ 0b0000#4 ++ 0b0000#4 ++ 0b0000#4 ++ 0b01000001#8) = .ok .sealMsg := by decide

theorem test_decode_open :
    decode (0#44 ++ 0b0000#4 ++ 0b0000#4 ++ 0b0000#4 ++ 0b01000010#8) = .ok .openMsg := by decide

theorem test_decode_derive :
    decode (0#44 ++ 0b0000#4 ++ 0b0000#4 ++ 0b0101#4 ++ 0b01000011#8) = .ok (.derive 5) := by decide

theorem test_decode_auth :
    decode (0#44 ++ 0b0000#4 ++ 0b0001#4 ++ 0b0110#4 ++ 0b01000100#8) = .ok (.auth 6 1) := by decide

/-- 30_encoding R96, each of its reasons; 60_exceptions E-vectors of 95_test_vectors section 8. -/
theorem test_decode_refuses :
    decode 0x0000000000000000 = .error .unknownOpcode ∧ decode 0x00000000000000FF = .error .unknownOpcode ∧
    decode 0x0000000000000810 = .error .registerAbove7 ∧ decode 0x0000000000008010 = .error .registerAbove7 ∧
    decode 0x0000000000080010 = .error .registerAbove7 ∧ decode 0x0000000000001041 = .error .unusedFieldSet ∧
    decode 0x0000000000010311 = .error .unusedFieldSet ∧ decode 0x0000000000100010 = .error .zeroFieldSet ∧
    decode 0x8000000000000040 = .error .zeroFieldSet := by decide

/-! ### Small states: the cipher TOY of 95_test_vectors section 1, fixed on four blocks -/

/-- The hash subkey of TOY. -/
def toyH : FieldElement := { low := 0x0011223344556677, high := 0x8899aabbccddeeff }

/-- TOY on the zero block and on the nonce `00 01 ... 0b` with the counts 1, 2, 3. -/
def toyCipher : Cipher where
  blockSize := 16
  answers :=
    [({ low := 0, high := 0 }, toyH),
     ({ low := 0x0001020304050607, high := 0x08090a0b00000001 }, { low := 0x011321374153617f, high := 0x8193a1bbccddefff }),
     ({ low := 0x0001020304050607, high := 0x08090a0b00000002 }, { low := 0x011321374153617f, high := 0x8193a1bbccddecff }),
     ({ low := 0x0001020304050607, high := 0x08090a0b00000003 }, { low := 0x011321374153617f, high := 0x8193a1bbccddedff })]

/-- Reset, with TOY on the cipher port. -/
def idle0 : State := { State.start [] with cipher := toyCipher }

/-- A command is latched. -/
def busy0 : State := { idle0 with busy := true, cmdl := 0x0000000000010210 }

/-- A command has ended in NOT_READY. -/
def faulted0 : State := { idle0 with fault := true, fcause := 0x02, cmdl := 0x0000000000000041 }

/-- The context INIT builds for 12-byte nonces and 16-byte tags. -/
def ready : State :=
  { idle0 with ctx := { valid := true, nonceSize := 12, tagSize := 16, table := buildTable toyH } }

/-- `n` bytes counting up from `a`. -/
def upto (a n : Nat) : Bytes := (List.range n).map fun i => BitVec.ofNat 8 (a + i)

/-- The example of 44_gcm R208. -/
def sealState : State :=
  { ready with
    mem := Memory.writeN (Memory.writeN (Memory.writeN [] 0x0100 (upto 0x00 12)) 0x0200 (upto 0xa0 5)) 0x2000 (upto 0x20 20)
    nonceAddr := 0x0100
    nonceLen := 12
    aadAddr := 0x0200
    aadLen := 5
    srcAddr := 0x2000
    srcLen := 20
    dstAddr := 0x3000 }

/-- The ciphertext and the tag of that example. -/
def sealedBytes : Bytes :=
  [0x21, 0x32, 0x03, 0x14, 0x65, 0x76, 0x47, 0x58, 0xa9, 0xba, 0x8b, 0x90, 0xe0, 0xf0, 0xc2, 0xd0, 0x31, 0x22, 0x13, 0x04,
   0x0f, 0xef, 0x45, 0x93, 0x6d, 0xef, 0x0d, 0xec, 0xfd, 0x53, 0x93, 0x4e, 0x33, 0xaf, 0xe8, 0x96]

/-- The example of 44_gcm R212. -/
def openState : State :=
  { sealState with
    mem := Memory.writeN sealState.mem 0x3000 sealedBytes
    srcAddr := 0x3000
    srcLen := 36
    dstAddr := 0x4000 }

/-- What one sees of the next state an outcome gives. -/
def see {α : Type} (o : Out) (f : State → α) : Option α :=
  match o with
  | .next t => some (f t)
  | .fault _ => none
  | .refused _ => none

/-- The next state an outcome gives. -/
def after (o : Out) : State :=
  match o with
  | .next t => t
  | .fault _ => idle0
  | .refused _ => idle0

theorem next_after (o : Out) (h : see o (fun _ => ()) = some ()) : o = .next (after o) := by
  cases o with
  | next t => rfl
  | fault r => cases h
  | refused r => cases h

/-! ### One step of each command: the examples of the command rules -/

theorem test_fadd_example :
    see (exec (.fadd 2 0 1) ((idle0.setV 0 { low := 0xffffffffffffffff, high := 0 }).setV 1
      { low := 0x00000000ffffffff, high := 0x8000000000000001 })) (fun t => t.getV 2) =
      some { low := 0xffffffff00000000, high := 0x8000000000000001 } := by decide +kernel

theorem test_fadd_onto_its_source :
    see (exec (.fadd 1 1 1) (idle0.setV 1 { low := 5, high := 6 })) (fun t => t.getV 1) = some FieldElement.zero := by
  decide +kernel

theorem test_fdbl_example :
    see (exec (.fdbl 3 0) (idle0.setV 0 { low := 0x0123456789abcdef, high := 0xfedcba9876543211 })) (fun t => t.getV 3) =
      some { low := 0xe191a2b3c4d5e6f7, high := 0xff6e5d4c3b2a1908 } := by decide +kernel

theorem test_fdbl_carry_and_reduction :
    see (exec (.fdbl 0 0) (idle0.setV 0 { low := 1, high := 1 })) (fun t => t.getV 0) =
      some { low := 0xe100000000000000, high := 0x8000000000000000 } := by decide +kernel

theorem test_fmul_example :
    see (exec (.fmul 1 1) (ready.setV 1 { low := 0x0123456789abcdef, high := 0xfedcba9876543210 })) (fun t => t.getV 1) =
      some { low := 0x24d54fb01d1e73fb, high := 0x113b0207cac38dff } := by decide +kernel

theorem test_fmul_not_ready :
    see (exec (.fmul 0 1) idle0) (fun t => (t.fault, t.fcause, t.busy)) = some (true, 0x02, false) := by decide +kernel

theorem test_ghupd_example :
    see (exec (.ghupd 4) { ready with mem := Memory.writeN [] 0x1000 (upto 0 17), srcAddr := 0x1000, srcLen := 17 })
      (fun t => t.getV 4) = some { low := 0x7182ded06ea5f069, high := 0x70039e7259c8d6b3 } := by decide +kernel

theorem test_ctrx_example :
    see (exec (.ctrx 0) (sealState.setV 0 { low := 0x0001020304050607, high := 0x08090a0b00000002 }))
      (fun t => (t.bytesAt 0x3000 21, t.getV 0, t.outLen)) =
      some (sealedBytes.take 20 ++ [0], { low := 0x0001020304050607, high := 0x08090a0b00000004 }, 20) := by decide +kernel

theorem test_cenc_example :
    see (exec (.cenc 2 1) (ready.setV 1 { low := 0x0001020304050607, high := 0x08090a0b00000001 })) (fun t => t.getV 2) =
      some { low := 0x011321374153617f, high := 0x8193a1bbccddefff } := by decide +kernel

theorem test_cinc_wraps :
    see (exec (.cinc 0 0) (ready.setV 0 { low := 0x0001020304050607, high := 0x08090a0bffffffff })) (fun t => t.getV 0) =
      some { low := 0x0001020304050607, high := 0x08090a0b00000000 } := by decide +kernel

theorem test_init_example :
    see (exec .initCtx { idle0 with cfgNonceSize := 12, cfgTagSize := 16 })
      (fun t => (statusWord t, t.ctx.nonceSize, t.ctx.tagSize, t.ctx.table[8], t.ctx.table[1])) =
      some (0x0000000000000002, 12, 16, toyH, { low := 0xa9c22446688aacce, high := 0xf1133557799bbddf }) := by decide +kernel

theorem test_init_refuses_tag_size_11 :
    see (exec .initCtx { ready with cfgNonceSize := 12, cfgTagSize := 11 }) (fun t => (statusWord t, t.ctx)) =
      some (0x0000000000000200, Context.clear) := by decide +kernel

theorem test_derive_example :
    see (exec (.derive 5)
      { ready with
        ctx := { ready.ctx with nonceSize := 8 }
        mem := Memory.writeN [] 0x0100 [0xca, 0xfe, 0xba, 0xbe, 0xfa, 0xce, 0xdb, 0xad]
        nonceAddr := 0x0100
        nonceLen := 8 }) (fun t => t.getV 5) =
      some { low := 0xf94c62316079a507, high := 0xf1c0a6b71abe5a3f } := by decide +kernel

theorem test_auth_example :
    see (exec (.auth 6 1)
      ({ ready with
        mem := Memory.writeN (Memory.writeN [] 0x0200 (upto 0xa0 5)) 0x3000 (upto 0x40 20)
        srcAddr := 0x3000
        srcLen := 20
        aadAddr := 0x0200
        aadLen := 5 : State }.setV 1 { low := 0x0001020304050607, high := 0x08090a0b0c0d0e0f })) (fun t => t.getV 6) =
      some { low := 0xfcb6a803b6283479, high := 0x3011e0b49dfdafac } := by decide +kernel

theorem test_seal_example :
    see (exec .sealMsg sealState) (fun t => (t.bytesAt 0x3000 37, t.outLen)) = some (sealedBytes ++ [0], 36) := by decide +kernel

theorem test_open_example :
    see (exec .openMsg openState) (fun t => (t.bytesAt 0x4000 20, t.outLen, statusWord t)) =
      some (upto 0x20 20, 20, 0x0000000000000002) := by decide +kernel

theorem test_open_tampered :
    see (exec .openMsg { openState with mem := Memory.writeN (Memory.write openState.mem 0x3023 0x97) 0x4000 (upto 1 24) })
      (fun t => (t.bytesAt 0x4000 24, t.outLen, statusWord t)) =
      some (zeros 20 ++ [0x15, 0x16, 0x17, 0x18], 0, 0x0000000000000102) := by decide +kernel

/-! ### The host's side -/

/-- A word written to CMD is accepted and one step later executed. -/
theorem test_step_runs_the_accepted_command :
    see (core.run 2 { ready with script := [.writeReg 0x00 0x0000000000000311] } : Out) (fun t => (t.busy, t.fault, t.result)) =
      some (false, false, 0x00) := by decide +kernel

theorem test_write_is_dropped_while_busy :
    see (step { busy0 with script := [.writeReg 0x08 0x1234] }) (fun t => t.dstAddr) = some 0 := by decide +kernel

theorem test_soft_reset_leaves_memory :
    see (step { faulted0 with mem := [(5, 6)], script := [.writeReg 0x02 1] }) (fun t => (statusWord t, t.mem)) =
      some (0, [(5, 6)]) := by decide +kernel

/-- The refusal an answer is, if it is one. -/
def refusal (o : Out) : Option Refusal :=
  match o with
  | .refused r => some r
  | _ => none

/-- A second accepted word, an illegal one, does not end the window of the first (70_reset R290). -/
theorem test_second_command_keeps_the_first_window :
    refusal (core.run 4 { sealState with script := [.writeReg 0x00 0x41, .coreTurn, .writeReg 0x00 0, .readMem 0x3000 1] }) =
      some .hostTouchedBuffer := by decide +kernel

/-- RSEAL and ROPEN without the context they require (45_random_nonce R230; log 20). -/
theorem test_wrapper_needs_its_context :
    refusal (step { idle0 with script := [.rseal 0x5000 0 0x2000 20 0x0200 5] }) = some .wrapperContext ∧
    refusal (step { ready with ctx := { ready.ctx with tagSize := 12 }, script := [.ropen 0x6000 0 0x5000 48 0x0200 5] }) =
      some .wrapperContext ∧
    wrapperNonceSize = 0 ∧ wrapperOverhead = 28 := by decide +kernel

/-- A host read across the top of the address space goes on: the last byte, then a free value (log 12). -/
theorem test_host_read_past_the_top :
    see (step { idle0 with mem := [(2 ^ 64 - 1, 5)], script := [.readMem 0xFFFFFFFFFFFFFFFF 2] }) (fun t => (t.seen, t.free)) =
      some ([.mem 0xFFFFFFFFFFFFFFFF [5, Config.freeByte 0]], 1) := by rfl

/-- A host write across the top goes on too, and ROPEN whose nonce ends at the top hands OPEN a free address (log 12). -/
theorem test_host_goes_on_past_the_top :
    see (step { idle0 with script := [.writeMem 0xFFFFFFFFFFFFFFFF [7, 8]] }) (fun t => t.free) = some 1 ∧
    see (step { ready with script := [.ropen 0 0 0xFFFFFFFFFFFFFFF4 28 0 0] }) (fun t => t.script[2]?) =
      some (some (.writeReg 0x09 (Config.freeWord 0))) := ⟨by rfl, by rfl⟩

/-- RSEAL in place (45_random_nonce R233): the same bytes as with separate buffers. -/
theorem test_rseal_in_place :
    see (core.run 13 { sealState with
      mem := Memory.writeN (Memory.writeN [] 0x0200 (upto 0xa0 5)) 0x5000 (upto 0x20 20)
      randoms := [0x000102030405060708090a0b]
      script := [.rseal 0x5000 0 0x5000 20 0x0200 5] } : Out) (fun t => (t.bytesAt 0x5000 48, t.outLen)) =
      some (upto 0 12 ++ sealedBytes, 36) := by decide +kernel

/-! ### For each statement with hypotheses: a concrete state and operands that meet them, clause by clause -/

/-- A cipher function with 16-byte answers. -/
theorem toy_length (b : Bytes) : (toyCipher.encrypt b).length = 16 := rfl

theorem witness_DecodeOfEncodeIsTheCommand : (Instr.fadd 7 0 7).wellFormed = true ∧ Instr.openMsg.wellFormed = true := by decide

theorem witness_EncodeOfDecodeIsTheWord : decode 0x0000000000077710 = .ok (.fadd 7 7 7) := by decide

theorem witness_WordIsOfARowExactlyWhenItMatches :
    (0x0000000000077710 : Word) &&& (Instr.fadd 0 0 0).rowMask = (Instr.fadd 0 0 0).rowMatch ∧
    (0x0000000000077710 : Word) &&& (Instr.fadd 7 7 7).rowMask = (Instr.fadd 7 7 7).rowMatch := by decide

theorem witness_ResetInputAndSoftResetAreOne :
    (0x0000000000000001 : Word).getLsbD 0 = true ∧ (0xFFFFFFFFFFFFFFFE : Word).getLsbD 0 = false := by decide

theorem witness_StepRunsTheDecodedCommand :
    phase busy0 = .busy ∧ busy0.script = [] ∧ decode busy0.cmdl = .ok (.fadd 2 0 1) ∧
    phase { busy0 with cmdl := 0 } = .busy ∧ ({ busy0 with cmdl := 0 } : State).script = [] ∧
    decode ({ busy0 with cmdl := 0 } : State).cmdl = .error .unknownOpcode := by decide

theorem witness_CoreMovesOnlyWhenBusy :
    phase idle0 ≠ .busy ∧ idle0.script = [] ∧ phase faulted0 ≠ .busy ∧ faulted0.script = [] := by decide

theorem witness_NamedIllegalWordsAreRefused :
    (0x0000000000100010 : Word).extractLsb' 20 44 ≠ 0 ∧ (0x8000000000000010 : Word).extractLsb' 20 44 ≠ 0 ∧
    ((0x0000000000000000 : Word).extractLsb' 0 8).toNat ∉
      [0x10, 0x11, 0x12, 0x20, 0x30, 0x31, 0x32, 0x40, 0x41, 0x42, 0x43, 0x44] ∧
    ((0x0000000000000045 : Word).extractLsb' 0 8).toNat ∉
      [0x10, 0x11, 0x12, 0x20, 0x30, 0x31, 0x32, 0x40, 0x41, 0x42, 0x43, 0x44] ∧
    (0x0000000000000810 : Word).getLsbD 11 = true ∧ (0x0000000000008010 : Word).getLsbD 15 = true ∧
    (0x0000000000080010 : Word).getLsbD 19 = true ∧
    (decode 0x0000000000000311 = .ok (.fdbl 3 0) ∧ (Instr.fdbl 3 0).regs.length < 3) ∧
    (decode 0x0000000000000420 = .ok (.ghupd 4) ∧ (Instr.ghupd 4).regs.length < 2) ∧
    (decode 0x0000000000000040 = .ok .initCtx ∧ Instr.initCtx.regs.length < 1) := by decide

theorem witness_registers_ok : RegField.ok 0 = true ∧ RegField.ok 7 = true := by decide

theorem witness_FaddAddsTheElements : RegField.ok 7 = true ∧ RegField.ok 0 = true ∧ RegField.ok 1 = true := by decide

theorem witness_FdblDoublesTheElement : RegField.ok 7 = true ∧ RegField.ok 7 = true := by decide

theorem witness_FmulMultipliesByTheSubkey :
    RegField.ok 7 = true ∧ RegField.ok 0 = true ∧ idle0.ctx.valid = false ∧ ready.ctx.valid = true := by decide

theorem witness_DoubleShiftsTheTwoWords :
    ({ low := 0, high := 2 } : FieldElement).high.getLsbD 0 = false ∧
    ({ low := 0, high := 1 } : FieldElement).high.getLsbD 0 = true := by decide

theorem witness_DoubleIsMultiplicationByX : 0 < 127 ∧ 126 < 127 := by decide

theorem witness_TableHoldsTheMultiplesOfTheSubkey : (0 : BitVec 4).toNat < 8 ∧ (7 : BitVec 4).toNat < 8 := by decide

theorem witness_GhupdAbsorbsTheSource :
    RegField.ok 7 = true ∧ idle0.ctx.valid = false ∧
    (let s : State := { ready with srcAddr := 0xFFFFFFFFFFFFFFFF, srcLen := 2 }
     s.ctx.valid = true ∧ 2 ^ 64 < s.srcAddr.toNat + s.srcLen.toNat) ∧
    (let s : State := { ready with srcAddr := 0xFFFFFFFFFFFFFFFF, srcLen := 1 }
     s.ctx.valid = true ∧ s.srcAddr.toNat + s.srcLen.toNat ≤ 2 ^ 64) := by decide

theorem witness_UpdateGoesBlockByBlockAndPadsWithZeros :
    ((upto 0 16).length = 16 ∧ (upto 0 32).length % 16 = 0) ∧
    ((upto 0 31).length % 16 ≠ 0 ∧ 1 ≤ 16 - (upto 0 31).length % 16) ∧
    ((upto 0 17).length % 16 ≠ 0 ∧ 15 ≤ 16 - (upto 0 17).length % 16) := by decide

theorem witness_GhashIsThePolynomialInTheSubkey : ∀ b ∈ [upto 0 16, upto 7 16], b.length = 16 := by decide

theorem witness_IncrementTouchesTheCountOnly : (zeros 12 ++ [0xff, 0xff, 0xff, 0xff]).length = 16 := by decide

theorem witness_CincIncrementsTheCount :
    RegField.ok 7 = true ∧ RegField.ok 7 = true ∧ idle0.ctx.valid = false ∧ ready.ctx.valid = true := by decide

theorem witness_CencEncryptsOneBlock :
    RegField.ok 7 = true ∧ RegField.ok 0 = true ∧ idle0.ctx.valid = false ∧ ready.ctx.valid = true := by decide

/-- CTRX: not ready; CAP + 1; past the top by one; an overlap by one byte; and success at CAP and in place. -/
theorem witness_CtrxEncryptsTheSource :
    RegField.ok 7 = true ∧ idle0.ctx.valid = false ∧
    (let s : State := { ready with srcLen := 68719476705 }
     s.ctx.valid = true ∧ CAP < s.srcLen.toNat) ∧
    (let s : State := { ready with srcLen := 16, srcAddr := 0xFFFFFFFFFFFFFFF1 }
     s.ctx.valid = true ∧ s.srcLen.toNat ≤ CAP ∧
       (2 ^ 64 < s.srcAddr.toNat + s.srcLen.toNat ∨ 2 ^ 64 < s.dstAddr.toNat + s.srcLen.toNat)) ∧
    (let s : State := { ready with srcLen := 16, srcAddr := 0x100F, dstAddr := 0x1000 }
     s.ctx.valid = true ∧ s.srcLen.toNat ≤ CAP ∧
       ¬(2 ^ 64 < s.srcAddr.toNat + s.srcLen.toNat ∨ 2 ^ 64 < s.dstAddr.toNat + s.srcLen.toNat) ∧
       InexactOverlap s.dstAddr.toNat s.srcLen.toNat s.srcAddr.toNat s.srcLen.toNat) ∧
    (let s : State := { ready with srcLen := 68719476704 }
     s.ctx.valid = true ∧ s.srcLen.toNat ≤ CAP ∧
       ¬(2 ^ 64 < s.srcAddr.toNat + s.srcLen.toNat ∨ 2 ^ 64 < s.dstAddr.toNat + s.srcLen.toNat) ∧
       ¬InexactOverlap s.dstAddr.toNat s.srcLen.toNat s.srcAddr.toNat s.srcLen.toNat) := by
  unfold InexactOverlap AnyOverlap; decide

theorem witness_CounterModeGoesChunkByChunk :
    (∀ b, (toyCipher.encrypt b).length = 16) ∧ upto 0 17 ≠ [] ∧ (upto 0 16).length = 16 :=
  ⟨toy_length, by decide, by decide⟩

theorem witness_CounterModeIsItsOwnInverse :
    (∀ b, (toyCipher.encrypt b).length = 16) ∧ 16 < (upto 0 17).length ∧ (upto 0 16).length = 16 ∧ 2 ^ 32 - 1 < 2 ^ 32 ∧
    inc32^[3] (upto 0 16) = inc32^[3] (upto 0 16) :=
  ⟨toy_length, by decide, by decide, by decide, rfl⟩

theorem witness_DeriveGivesTheFirstCounter :
    RegField.ok 7 = true ∧ idle0.ctx.valid = false ∧
    (ready.ctx.valid = true ∧ ready.nonceLen ≠ ready.ctx.nonceSize) ∧
    (let s : State := { sealState with nonceAddr := 0xFFFFFFFFFFFFFFF5 }
     s.ctx.valid = true ∧ s.nonceLen = s.ctx.nonceSize ∧ 2 ^ 64 < s.nonceAddr.toNat + s.nonceLen.toNat) ∧
    (let s : State := { sealState with nonceAddr := 0xFFFFFFFFFFFFFFF4 }
     s.ctx.valid = true ∧ s.nonceLen = s.ctx.nonceSize ∧ s.nonceAddr.toNat + s.nonceLen.toNat ≤ 2 ^ 64 ∧ s.nonceLen = 12) := by
  decide

theorem witness_FirstCounterIsTheNonceOrItsHash :
    (upto 0 12).length < 2 ^ 61 ∧ (upto 0 12).length = 12 ∧ (upto 0 13).length < 2 ^ 61 ∧ (upto 0 13).length ≠ 12 := by decide

theorem witness_TagIsTheHashOfDataAndLengths :
    (upto 0 5).length < 2 ^ 61 ∧ (upto 0 20).length ≤ CAP ∧ (upto 0 16).length = 16 := by decide

/-- AUTH: not ready; CAP + 1; 2^61 bytes of associated data; past the top by one; and success at CAP and 2^61 - 1. -/
theorem witness_AuthComputesTheTag :
    RegField.ok 7 = true ∧ RegField.ok 0 = true ∧ idle0.ctx.valid = false ∧
    (let s : State := { ready with srcLen := 68719476705 }
     s.ctx.valid = true ∧ CAP < s.srcLen.toNat) ∧
    (let s : State := { ready with srcLen := 68719476704, aadLen := 0x2000000000000000 }
     s.ctx.valid = true ∧ s.srcLen.toNat ≤ CAP ∧ 2 ^ 61 ≤ s.aadLen.toNat) ∧
    (let s : State := { ready with aadLen := 2, aadAddr := 0xFFFFFFFFFFFFFFFF }
     s.ctx.valid = true ∧ s.srcLen.toNat ≤ CAP ∧ s.aadLen.toNat < 2 ^ 61 ∧
       (2 ^ 64 < s.srcAddr.toNat + s.srcLen.toNat ∨ 2 ^ 64 < s.aadAddr.toNat + s.aadLen.toNat)) ∧
    (let s : State := { ready with srcLen := 68719476704, aadLen := 0x1FFFFFFFFFFFFFFF }
     s.ctx.valid = true ∧ s.srcLen.toNat ≤ CAP ∧ s.aadLen.toNat < 2 ^ 61 ∧
       ¬(2 ^ 64 < s.srcAddr.toNat + s.srcLen.toNat ∨ 2 ^ 64 < s.aadAddr.toNat + s.aadLen.toNat)) := by decide

/-- INIT's four ends, at the edges of the two ranges. -/
theorem witness_InitBuildsOrClearsTheContext :
    [11, 12, 16, 17].map (fun t : Word => decide (t.toNat < 12 ∨ 16 < t.toNat)) = [true, false, false, true] ∧
    [0, 1, 0x1FFFFFFFFFFFFFFF, 0x2000000000000000].map (fun n : Word => decide (n.toNat = 0 ∨ 2 ^ 61 ≤ n.toNat)) =
      [true, false, false, true] ∧
    (let s : State := { idle0 with cfgTagSize := 16, cfgNonceSize := 12, cipher := { blockSize := 8, answers := [] } }
     s.cipher.blockSize ≠ 16) ∧
    toyCipher.blockSize = 16 := by decide

theorem witness_SealIsCiphertextThenTag : (∀ b, (toyCipher.encrypt b).length = 16) ∧ 12 ≤ 16 ∧ 16 ≤ 16 :=
  ⟨toy_length, by decide, by decide⟩

/-- SEAL's two conditions on regions, as the statement writes them. -/
def sealPast (s : State) : Prop :=
  2 ^ 64 < s.nonceAddr.toNat + s.nonceLen.toNat ∨ 2 ^ 64 < s.srcAddr.toNat + s.srcLen.toNat ∨
    2 ^ 64 < s.aadAddr.toNat + s.aadLen.toNat ∨ 2 ^ 64 < s.dstAddr.toNat + (s.srcLen.toNat + s.ctx.tagSize.toNat)

/-- SEAL: not ready; a nonce of 11 bytes; CAP + 1; 2^61 bytes of associated data; past the top by one; an overlap by one byte; success
at the spec's example and with the output up to the very top. -/
theorem witness_SealWritesCiphertextAndTag :
    (idle0.ctx.tagSize.toNat ≤ 16 ∧ idle0.ctx.valid = false) ∧
    (let s : State := { sealState with nonceLen := 11 }
     s.ctx.tagSize.toNat ≤ 16 ∧ s.ctx.valid = true ∧ s.nonceLen ≠ s.ctx.nonceSize) ∧
    (let s : State := { sealState with srcLen := 68719476705 }
     s.ctx.tagSize.toNat ≤ 16 ∧ s.ctx.valid = true ∧ s.nonceLen = s.ctx.nonceSize ∧ CAP < s.srcLen.toNat) ∧
    (let s : State := { sealState with aadLen := 0x2000000000000000 }
     s.ctx.tagSize.toNat ≤ 16 ∧ s.ctx.valid = true ∧ s.nonceLen = s.ctx.nonceSize ∧ s.srcLen.toNat ≤ CAP ∧
       2 ^ 61 ≤ s.aadLen.toNat) ∧
    (let s : State := { sealState with dstAddr := 0xFFFFFFFFFFFFFFDD }
     s.ctx.tagSize.toNat ≤ 16 ∧ s.ctx.valid = true ∧ s.nonceLen = s.ctx.nonceSize ∧ s.srcLen.toNat ≤ CAP ∧
       s.aadLen.toNat < 2 ^ 61 ∧ sealPast s) ∧
    (let s : State := { sealState with dstAddr := 0x1FDD }
     s.ctx.tagSize.toNat ≤ 16 ∧ s.ctx.valid = true ∧ s.nonceLen = s.ctx.nonceSize ∧ s.srcLen.toNat ≤ CAP ∧
       s.aadLen.toNat < 2 ^ 61 ∧ ¬sealPast s ∧ SealOverlap s) ∧
    (let s : State := { sealState with dstAddr := 0xFFFFFFFFFFFFFFDC }
     s.ctx.tagSize.toNat ≤ 16 ∧ s.ctx.valid = true ∧ s.nonceLen = s.ctx.nonceSize ∧ s.srcLen.toNat ≤ CAP ∧
       s.aadLen.toNat < 2 ^ 61 ∧ ¬sealPast s ∧ ¬SealOverlap s) := by
  unfold sealPast SealOverlap InexactOverlap AnyOverlap; decide

/-- OPEN's condition on regions, as the statement writes it. -/
def openPast (s : State) : Prop :=
  2 ^ 64 < s.nonceAddr.toNat + s.nonceLen.toNat ∨ 2 ^ 64 < s.srcAddr.toNat + s.srcLen.toNat ∨
    2 ^ 64 < s.aadAddr.toNat + s.aadLen.toNat ∨ 2 ^ 64 < s.dstAddr.toNat + (s.srcLen.toNat - s.ctx.tagSize.toNat)

/-- OPEN: not ready; a nonce of 11 bytes; one byte less than a tag and one more than CAP and a tag; 2^61 bytes of associated data; past
the top by one; an overlap by one byte; success at the spec's example. -/
theorem witness_OpenVerifiesThenDecrypts :
    idle0.ctx.valid = false ∧
    (let s : State := { openState with nonceLen := 11 }
     s.ctx.valid = true ∧ s.nonceLen ≠ s.ctx.nonceSize) ∧
    (let s : State := { openState with srcLen := 15 }
     (s.ctx.valid = true ∧ s.nonceLen = s.ctx.nonceSize) ∧ OpenLengthBad s) ∧
    (let s : State := { openState with srcLen := 68719476721 }
     (s.ctx.valid = true ∧ s.nonceLen = s.ctx.nonceSize) ∧ OpenLengthBad s) ∧
    (let s : State := { openState with srcLen := 16, aadLen := 0x2000000000000000 }
     (s.ctx.valid = true ∧ s.nonceLen = s.ctx.nonceSize) ∧ ¬OpenLengthBad s ∧ 2 ^ 61 ≤ s.aadLen.toNat) ∧
    (let s : State := { openState with srcAddr := 0xFFFFFFFFFFFFFFDD }
     (s.ctx.valid = true ∧ s.nonceLen = s.ctx.nonceSize) ∧ ¬OpenLengthBad s ∧ s.aadLen.toNat < 2 ^ 61 ∧ openPast s) ∧
    (let s : State := { openState with dstAddr := 0x3023 }
     (s.ctx.valid = true ∧ s.nonceLen = s.ctx.nonceSize) ∧ ¬OpenLengthBad s ∧ s.aadLen.toNat < 2 ^ 61 ∧ ¬openPast s ∧
       OpenOverlap s) ∧
    (let s : State := openState
     (s.ctx.valid = true ∧ s.nonceLen = s.ctx.nonceSize) ∧ ¬OpenLengthBad s ∧ s.aadLen.toNat < 2 ^ 61 ∧ ¬openPast s ∧
       ¬OpenOverlap s) := by
  unfold openPast OpenLengthBad OpenOverlap InexactOverlap AnyOverlap
  exact ⟨by decide, by decide, by decide, by decide, by decide, by decide, by decide, by decide⟩

theorem witness_OpenUndoesSeal : (∀ b, (toyCipher.encrypt b).length = 16) ∧ 16 ≤ 16 ∧ (upto 0x20 20).length ≤ CAP :=
  ⟨toy_length, by decide, by decide⟩

/-- A changed tag, and an accepted message. -/
theorem witness_OpenRejectsAChangedTag :
    (∀ b, (toyCipher.encrypt b).length = 16) ∧ 16 ≤ 16 ∧ (zeros 16).length = 16 ∧
    zeros 16 ≠
      (gcmSeal toyCipher.encrypt (buildTable toyH) 16 (upto 0 12) (upto 0x20 20) (upto 0xa0 5)).drop (upto 0x20 20).length ∧
    (sealedBytes.drop 20).length = 16 ∧
    gcmOpen toyCipher.encrypt (buildTable toyH) 16 (upto 0 12) (sealedBytes.take 20 ++ sealedBytes.drop 20) (upto 0xa0 5) =
      some (upto 0x20 20) :=
  ⟨toy_length, by decide, by decide, by decide +kernel, by decide, by decide +kernel⟩

/-- The state SEAL leaves on the spec's example. -/
def sealed : State := after (exec .sealMsg sealState)

theorem seal_tests_pass : NoneHolds (tests .sealMsg sealState) := by
  simp only [NoneHolds, tests, List.mem_cons, List.not_mem_nil, or_false, forall_eq_or_imp, forall_eq]
  unfold WrongNonce PastTop SealOverlap InexactOverlap AnyOverlap
  decide

theorem witness_SealThenOpenGivesThePlaintext :
    sealState.ctx.tagSize.toNat ≤ 16 ∧ NoneHolds (tests .sealMsg sealState) ∧
    ¬AnyOverlap sealState.dstAddr.toNat (sealState.srcLen.toNat + sealState.ctx.tagSize.toNat) sealState.nonceAddr.toNat
      sealState.nonceLen.toNat ∧
    exec .sealMsg sealState = .next sealed ∧
    NoneHolds (tests .openMsg { sealed with srcAddr := sealState.dstAddr, srcLen := sealed.outLen, dstAddr := 0x4000 }) := by
  refine ⟨by decide, seal_tests_pass, ?_, next_after _ (by decide +kernel), ?_⟩
  · unfold AnyOverlap; decide
  · simp only [NoneHolds, tests, List.mem_cons, List.not_mem_nil, or_false, forall_eq_or_imp, forall_eq]
    unfold WrongNonce PastTop OpenLengthBad OpenOverlap InexactOverlap AnyOverlap
    decide +kernel

theorem witness_SealOutputDoesNotDependOnItsPlace :
    sealState.ctx.tagSize.toNat ≤ 16 ∧ NoneHolds (tests .sealMsg sealState) ∧
    NoneHolds (tests .sealMsg { sealState with dstAddr := sealState.srcAddr }) := by
  refine ⟨by decide, seal_tests_pass, ?_⟩
  simp only [NoneHolds, tests, List.mem_cons, List.not_mem_nil, or_false, forall_eq_or_imp, forall_eq]
  unfold WrongNonce PastTop SealOverlap InexactOverlap AnyOverlap
  decide

theorem witness_FirstTestDecidesTheFatalError :
    FirstIs 0x01 (tests (.fadd 8 0 0) idle0) ∧ FirstIs 0x02 (tests (.fmul 0 0) idle0) ∧
    FirstIs 0x03 (tests .openMsg ready) ∧ NoneHolds (tests .sealMsg sealState) := by
  refine ⟨?_, ?_, ?_, seal_tests_pass⟩
  · simp only [tests, FirstIs]; unfold Above7; decide
  · simp only [tests, FirstIs]; unfold Above7; decide
  · simp only [tests, FirstIs]; unfold WrongNonce OpenLengthBad PastTop OpenOverlap InexactOverlap AnyOverlap; decide

theorem witness_FatalErrorChangesTheStatusOnly :
    idle0.fault = false ∧ exec (.fmul 0 0) idle0 = .next (after (exec (.fmul 0 0) idle0)) ∧
    (after (exec (.fmul 0 0) idle0)).fault = true :=
  ⟨rfl, next_after _ (by decide +kernel), by decide +kernel⟩

theorem witness_FatalErrorDependsOnNoSecret :
    exec (.fmul 0 0) ready = .next (after (exec (.fmul 0 0) ready)) ∧
    exec (.fmul 0 0)
        { ready with
          mem := [(5, 6)], vregs := Vector.replicate 8 toyH, ctx := { ready.ctx with table := Vector.replicate 16 toyH },
          cipher := toyCipher } =
      .next (after (exec (.fmul 0 0)
        { ready with
          mem := [(5, 6)], vregs := Vector.replicate 8 toyH, ctx := { ready.ctx with table := Vector.replicate 16 toyH },
          cipher := toyCipher })) :=
  ⟨next_after _ (by decide +kernel), next_after _ (by decide +kernel)⟩

theorem witness_OnlyInitAndResetWriteTheContext :
    Instr.sealMsg ≠ .initCtx ∧ exec .sealMsg sealState = .next sealed ∧
    step { idle0 with busy := true, cmdl := 0x40, cfgNonceSize := 12, cfgTagSize := 16 } =
      .next (after (step { idle0 with busy := true, cmdl := 0x40, cfgNonceSize := 12, cfgTagSize := 16 })) :=
  ⟨by decide, next_after _ (by decide +kernel), next_after _ (by decide +kernel)⟩

theorem witness_CommandsKeepTheOperandRegisters :
    exec (.fadd 2 0 1) idle0 = .next (after (exec (.fadd 2 0 1) idle0)) ∧ (∀ vd, Instr.fadd 2 0 1 ≠ .ctrx vd) ∧
    Instr.fadd 2 0 1 ≠ .sealMsg ∧ Instr.fadd 2 0 1 ≠ .openMsg :=
  ⟨next_after _ (by decide +kernel), (fun _ h => nomatch h), by decide, by decide⟩

theorem witness_OnlyTheDestinationRegisterChanges :
    (Instr.sealMsg.wellFormed = true ∧ exec .sealMsg sealState = .next sealed ∧ destination .sealMsg = none) ∧
    ((Instr.fadd 7 0 1).wellFormed = true ∧ exec (.fadd 7 0 1) idle0 = .next (after (exec (.fadd 7 0 1) idle0)) ∧
      RegField.ok 6 = true ∧ destination (.fadd 7 0 1) ≠ some 6) :=
  ⟨⟨by decide, next_after _ (by decide +kernel), rfl⟩, ⟨by decide, next_after _ (by decide +kernel), by decide, by decide⟩⟩

theorem witness_OnlyTheOutputRegionIsWritten :
    (exec (.fmul 0 0) idle0 = .next (after (exec (.fmul 0 0) idle0)) ∧ fatalCause (.fmul 0 0) idle0 ≠ none) ∧
    (exec .sealMsg sealState = .next sealed ∧
      ∀ r ∈ regionsWritten .sealMsg sealState, ¬(r.addr ≤ 0x3024 ∧ 0x3024 < r.addr + r.len)) :=
  ⟨⟨next_after _ (by decide +kernel), by decide⟩, ⟨next_after _ (by decide +kernel), by decide⟩⟩

/-- Two memories that differ just past the plaintext, where SEAL does not look. -/
theorem witness_OnlyTheInputRegionsAreRead :
    (∀ r ∈ regionsRead .sealMsg sealState, ∀ a, r.addr ≤ a → a < r.addr + r.len →
      Memory.read (Memory.write sealState.mem 0x2014 0x77) a = Memory.read sealState.mem a) ∧
    exec .sealMsg sealState = .next sealed ∧
    exec .sealMsg { sealState with mem := Memory.write sealState.mem 0x2014 0x77 } =
      .next (after (exec .sealMsg { sealState with mem := Memory.write sealState.mem 0x2014 0x77 })) ∧
    fatalCause .sealMsg sealState = none ∧ sealState.ctx.tagSize.toNat ≤ 16 ∧ sealOut sealState ∈ regionsWritten .sealMsg sealState ∧
    (sealOut sealState).addr ≤ 0x3023 ∧ 0x3023 < (sealOut sealState).addr + (sealOut sealState).len := by
  refine ⟨?_, next_after _ (by decide +kernel), next_after _ (by decide +kernel), by decide, by decide, by decide, by decide, by decide⟩
  have h : ∀ r ∈ regionsRead .sealMsg sealState, ∀ k < r.len,
      Memory.read (Memory.write sealState.mem 0x2014 0x77) (r.addr + k) = Memory.read sealState.mem (r.addr + k) := by
    decide +kernel
  intro r hr a h1 h2
  have := h r hr (a - r.addr) (by omega)
  rwa [show r.addr + (a - r.addr) = a by omega] at this

theorem witness_ResetMeetsTheStateInvariant : Memory.wf [(0, 1), (2 ^ 64 - 1, 0xff)] = true := by decide

theorem ready_inv : ready.Inv where
  phases := by decide
  causes := by decide
  results := by decide
  context := .inr ⟨by decide, by decide, by decide, by decide, by decide, by decide, by decide +kernel⟩
  memory := by decide

theorem witness_EveryStepKeepsTheStateInvariant :
    ready.Inv ∧ step { ready with script := [] } = .next (after (step { ready with script := [] })) ∧ State.reset.Inv :=
  ⟨ready_inv, next_after _ (by decide +kernel),
    ⟨by decide, .inl ⟨rfl, rfl⟩, by decide, .inl rfl, rfl⟩⟩

theorem witness_FaultStaysUntilReset :
    faulted0.fault = true ∧
    step { faulted0 with script := [.writeReg 0x00 0x10] } = .next (after (step { faulted0 with script := [.writeReg 0x00 0x10] })) :=
  ⟨rfl, next_after _ (by decide +kernel)⟩

theorem witness_BusyCommandCompletesOrFaults :
    let s : State := { busy0 with script := [.readReg 1, .writeReg 8 5, .coreTurn, .resetInput] }
    phase s = .busy ∧
      ∀ e ∈ s.script, e = .coreTurn ∨ e = .resetInput ∨ (∃ n, e = .readReg n) ∨ ∃ n v, e = .writeReg n v := by
  refine ⟨by decide, ?_⟩
  simp

theorem witness_CommandIsAcceptedInIdleOnly : phase idle0 = .idle ∧ phase busy0 ≠ .idle ∧ phase faulted0 ≠ .idle := by decide

theorem witness_RegisterWritesGoByTheRule :
    phase idle0 = .idle ∧ phase busy0 = .busy ∧ phase faulted0 = .faulted ∧ phase faulted0 ≠ .busy ∧
    [0x04, 0x05, 0x08, 0x0E, 0x10, 0x1F].all (fun n : Nat =>
      decide (n = 0x04 ∨ n = 0x05 ∨ (0x08 ≤ n ∧ n ≤ 0x0E) ∨ (0x10 ≤ n ∧ n ≤ 0x1F))) = true ∧
    [0x01, 0x03, 0x06, 0x07, 0x0F, 0x20].all (fun n : Nat =>
      decide (n = 0x01 ∨ n = 0x03 ∨ n = 0x06 ∨ n = 0x07 ∨ n = 0x0F ∨ 0x20 ≤ n)) = true ∧ 0x00 ≠ 0x01 := by decide

theorem witness_RegisterReadsHaveNoSideEffect : (0x03 = 0x03 ∧ 0x20 ≤ 0x20) ∧ 0x01 = 0x01 := by decide

theorem witness_AccessorsReadZeroWithoutAContext : State.reset.Inv ∧ State.reset.ctx.valid = false :=
  ⟨⟨by decide, .inl ⟨rfl, rfl⟩, by decide, .inl rfl, rfl⟩, rfl⟩

theorem witness_StatusWordHasItsFields : 3 ≤ 3 ∧ 3 ≤ 7 ∧ 7 ≤ 7 := by decide

/-- The last byte of each region of SEAL's example, and the last byte of its output. -/
theorem witness_BuffersOfARunningSealAreRefused :
    phase sealState = .idle ∧ fatalCause .sealMsg sealState = none ∧ (sealOut sealState).has 0x3023 = true ∧
    sealState.srcRegion.has 0x2013 = true ∧ sealState.aadRegion.has 0x0204 = true ∧ sealState.nonceRegion.has 0x010b = true := by
  decide

theorem witness_WrapperRefusesANonceAndAShortMessage : (12 : Word) ≠ 0 ∧ (0 : Word) = 0 ∧ (27 : Word).toNat < 28 := by decide

end Sys2Proof.Tests
end

section
/-! PROOFS, the state (10_state). Part 1: what a command, a register write and a step can do, each said once; the other
lemmas and the statements of the family go through these. -/

namespace Sys2Proof.Machine

open Sys2Proof.Reference

/-! ### The arms of `exec`, by name -/

section
variable (vd va vb : RegField) (s : State)
@[simp] theorem exec_fadd : exec (.fadd vd va vb) s = execFadd vd va vb s := rfl
@[simp] theorem exec_fdbl : exec (.fdbl vd va) s = execFdbl vd va s := rfl
@[simp] theorem exec_fmul : exec (.fmul vd va) s = execFmul vd va s := rfl
@[simp] theorem exec_ghupd : exec (.ghupd vd) s = execGhupd vd s := rfl
@[simp] theorem exec_ctrx : exec (.ctrx vd) s = execCtrx vd s := rfl
@[simp] theorem exec_cenc : exec (.cenc vd va) s = execCenc vd va s := rfl
@[simp] theorem exec_cinc : exec (.cinc vd va) s = execCinc vd va s := rfl
@[simp] theorem exec_initCtx : exec .initCtx s = execInit s := rfl
@[simp] theorem exec_sealMsg : exec .sealMsg s = execSeal s := rfl
@[simp] theorem exec_openMsg : exec .openMsg s = execOpen s := rfl
@[simp] theorem exec_derive : exec (.derive vd) s = execDerive vd s := rfl
@[simp] theorem exec_auth : exec (.auth vd va) s = execAuth vd va s := rfl
end

/-! ### The effect of a command -/

/-- The ways a command can end, with what it may have changed (10_state R32, R33, R44, R46): the fatal error; one vector register
written; CTRX's output, counter and OUT_LEN; SEAL's and OPEN's output and OUT_LEN; INIT's context. -/
inductive Effect (s : State) : Instr → State → Prop where
  | fatal (i : Instr) (c : Cause) : Effect s i (s.raiseFatal c)
  | vector {i : Instr} {vd : RegField} (hd : destination i = some vd) (x : FieldElement) (reqs : List CipherRequest) :
      Effect s i (((s.setV vd x).request reqs).finish .ok)
  | counter {out : Bytes} (hout : s.dstAddr.toNat + out.length ≤ addressSpace) (vd : RegField) (x : FieldElement) (n : Nat)
      (reqs : List CipherRequest) :
      Effect s (.ctrx vd) (((((s.store out).setV vd x).setOutLen n).request reqs).finish .ok)
  | message {i : Instr} (hi : i = .sealMsg ∨ i = .openMsg) {out : Bytes}
      (hout : s.dstAddr.toNat + out.length ≤ addressSpace) (n : Nat) (reqs : List CipherRequest) (r : ResultCode) :
      Effect s i ((((s.store out).setOutLen n).request reqs).finish r)
  | context {c : Context} (hc : c.Legal s.cipher) (reqs : List CipherRequest) (r : ResultCode) :
      Effect s .initCtx ((({ s with ctx := c } : State).request reqs).finish r)

@[simp] theorem State.request_nil (s : State) : s.request [] = s := by simp [State.request]

@[simp] theorem State.store_nil (s : State) : s.store [] = s := rfl

theorem Effect.vectorOnly {s : State} {i : Instr} {vd : RegField} (hd : destination i = some vd) (x : FieldElement) :
    Effect s i ((s.setV vd x).finish .ok) := by
  simpa using Effect.vector (s := s) hd x []

/-- The end of an OPEN of a bad length: no byte written, no request made (44_gcm R212). -/
theorem Effect.openLength (s : State) : Effect s .openMsg ((s.setOutLen 0).finish .authFail) := by
  have h : s.dstAddr.toNat + ([] : Bytes).length ≤ addressSpace := Nat.le_of_lt s.dstAddr.isLt
  simpa using Effect.message (.inr rfl) h 0 [] .authFail

theorem firstFailed_eq_none_iff (tests : List (Bool × Cause)) :
    firstFailed tests = none ↔ ∀ p ∈ tests, p.1 = false := by
  induction tests with
  | nil => simp
  | cons p rest ih =>
    obtain ⟨b, c⟩ := p
    cases b <;> simp [ih]

/-- Past the range test every region of the command is in range (60_exceptions R251). -/
theorem Region.end_le_of_passed {tests : List (Bool × Cause)} {rs : List Region} {r : Region}
    (h : firstFailed tests = none) (ht : testRange rs ∈ tests) (hr : r ∈ rs) : r.addr + r.len ≤ addressSpace := by
  have hpass : (testRange rs).1 = false := (firstFailed_eq_none_iff tests).1 h _ ht
  by_contra hc
  have : (testRange rs).1 = true := (testRange_iff rs).2 ⟨r, hr, Nat.lt_of_not_le hc⟩
  simp [hpass] at this

/-- A guarded command ends in the fatal error of a test or as its work does. -/
theorem guarded_effect {i : Instr} {s : State} {tests : List (Bool × Cause)} {work : State → Out}
    (h : firstFailed tests = none → ∃ t, work s = .next t ∧ Effect s i t) :
    ∃ t, guarded tests s work = .next t ∧ Effect s i t := by
  obtain ⟨c, -, hg⟩ | ⟨hnone, hg⟩ := guarded_cases tests s work
  · exact ⟨_, hg, .fatal i c⟩
  · rw [hg]; exact h hnone

/-- A command of the vector units: its tests, then one vector register. -/
theorem guarded_vector {i : Instr} {vd : RegField} (hd : destination i = some vd) (tests : List (Bool × Cause)) (s : State)
    (x : State → FieldElement) :
    ∃ t, guarded tests s (fun s => .next ((s.setV vd (x s)).finish .ok)) = .next t ∧ Effect s i t :=
  guarded_effect fun _ => ⟨_, rfl, Effect.vectorOnly hd (x s)⟩

theorem execCtrx_effect (vd : RegField) (s : State) : ∃ t, execCtrx vd s = .next t ∧ Effect s (.ctrx vd) t := by
  refine guarded_effect fun h => ⟨_, rfl, .counter ?_ vd _ _ _⟩
  have hrange : (ctrxOut s).addr + (ctrxOut s).len ≤ addressSpace :=
    Region.end_le_of_passed h (rs := [s.srcRegion, ctrxOut s]) (by simp [testsCtrx]) (by simp)
  rw [counterCrypt_length _ (encrypt_length s.cipher), bytesOf_length]
  exact hrange

theorem sealBytes_length_le (s : State) : (sealBytes s).length ≤ s.srcLen.toNat + s.ts := by
  rw [sealBytes, gcmSeal_length _ (encrypt_length s.cipher), bytesOf_length]
  exact Nat.add_le_add_left (Nat.min_le_left _ _) _

theorem execSeal_effect (s : State) : ∃ t, execSeal s = .next t ∧ Effect s .sealMsg t := by
  refine guarded_effect fun h => ⟨_, rfl, .message (.inl rfl) ?_ _ _ _⟩
  have hrange : s.dstAddr.toNat + (s.srcLen.toNat + s.ts) ≤ addressSpace :=
    Region.end_le_of_passed h (rs := [s.nonceRegion, s.srcRegion, s.aadRegion, sealOut s]) (r := sealOut s)
      (by simp [testsSeal]) (by simp)
  exact Nat.le_trans (Nat.add_le_add_left (sealBytes_length_le s) _) hrange

theorem openResult_length {s : State} {pt : Bytes} (h : openResult s = some pt) : pt.length = s.bodyLen := by
  obtain ⟨-, -, -, rfl⟩ := gcmOpen_some _ _ _ _ _ _ _ h
  rw [counterCrypt_length _ (encrypt_length s.cipher), List.length_take, bytesOf_length]
  exact Nat.min_eq_left (Nat.sub_le _ _)

theorem execOpen_effect (s : State) : ∃ t, execOpen s = .next t ∧ Effect s .openMsg t := by
  refine guarded_effect fun _ => ?_
  split
  · exact ⟨_, rfl, .openLength s⟩
  · refine guarded_effect fun h => ?_
    have hrange : s.dstAddr.toNat + s.bodyLen ≤ addressSpace :=
      Region.end_le_of_passed h (rs := [s.nonceRegion, s.srcRegion, s.aadRegion, openOut s]) (r := openOut s)
        (by simp [testsOpenAfter]) (by simp)
    split
    · exact ⟨_, rfl, .message (.inr rfl) (by rwa [zeros_length]) _ _ _⟩
    · next pt hpt => exact ⟨_, rfl, .message (.inr rfl) (by rwa [openResult_length hpt]) _ _ _⟩

theorem execInit_effect (s : State) : ∃ t, execInit s = .next t ∧ Effect s .initCtx t := by
  have hclear : Context.clear.Legal s.cipher := .inl rfl
  unfold execInit
  split_ifs with htag hnonce hblock
  · exact ⟨_, rfl, .context hclear _ _⟩
  · exact ⟨_, rfl, .context hclear _ _⟩
  · exact ⟨_, rfl, .context hclear _ _⟩
  · simp only [not_or, not_lt, ge_iff_le, not_le, gt_iff_lt] at htag hnonce
    obtain ⟨htag12, htag16⟩ := htag
    obtain ⟨hnonce0, hnonceMax⟩ := hnonce
    exact ⟨_, rfl, .context (.inr ⟨rfl, not_not.1 hblock, Nat.pos_of_ne_zero hnonce0, hnonceMax, htag12, htag16, rfl⟩) _ _⟩

/-- Every command, on every state, answers a next state, and that state is one of its effects (10_state R44). -/
theorem exec_effect (i : Instr) (s : State) : ∃ t, exec i s = .next t ∧ Effect s i t := by
  cases i with
  | fadd vd va vb => rw [exec_fadd]; exact guarded_vector rfl _ s _
  | fdbl vd va => rw [exec_fdbl]; exact guarded_vector rfl _ s _
  | fmul vd va => rw [exec_fmul]; exact guarded_vector rfl _ s _
  | ghupd vd => rw [exec_ghupd]; exact guarded_vector rfl _ s _
  | ctrx vd => rw [exec_ctrx]; exact execCtrx_effect vd s
  | cenc vd va => rw [exec_cenc]; exact guarded_effect fun _ => ⟨_, rfl, .vector rfl _ _⟩
  | cinc vd va => rw [exec_cinc]; exact guarded_vector rfl _ s _
  | initCtx => rw [exec_initCtx]; exact execInit_effect s
  | sealMsg => rw [exec_sealMsg]; exact execSeal_effect s
  | openMsg => rw [exec_openMsg]; exact execOpen_effect s
  | derive vd => rw [exec_derive]; exact guarded_vector rfl _ s _
  | auth vd va => rw [exec_auth]; exact guarded_vector rfl _ s _

theorem effect_of_exec {i : Instr} {s t : State} (h : exec i s = .next t) : Effect s i t := by
  obtain ⟨u, hu, heff⟩ := exec_effect i s
  cases hu.symm.trans h
  exact heff

/-- A command keeps all but the vector registers, OUT_LEN, the context, the status, memory and the requests. -/
theorem Effect.frame {i : Instr} {s t : State} (h : Effect s i t) :
    t = { s with
          vregs := t.vregs, outLen := t.outLen, ctx := t.ctx, busy := false, fault := t.fault, result := t.result,
          fcause := t.fcause, mem := t.mem, requests := t.requests } := by
  cases h <;> rfl

theorem Effect.outLen_eq {i : Instr} {s t : State} (h : Effect s i t) (hctrx : ∀ vd, i ≠ .ctrx vd) (hseal : i ≠ .sealMsg)
    (hopen : i ≠ .openMsg) : t.outLen = s.outLen := by
  cases h with
  | fatal | vector | context => rfl
  | counter _ vd => exact absurd rfl (hctrx vd)
  | message hi => exact (hi.elim hseal hopen).elim

theorem Effect.ctx_cases {i : Instr} {s t : State} (h : Effect s i t) :
    t.ctx = s.ctx ∨ (i = .initCtx ∧ t.ctx.Legal s.cipher) := by
  cases h with
  | fatal | vector | counter | message => exact .inl rfl
  | context hc => exact .inr ⟨rfl, hc⟩

/-- A vector register other than the destination keeps its value; without a destination the whole file does (10_state R46). -/
theorem Effect.vregs_of_no_destination {i : Instr} {s t : State} (h : Effect s i t) (hd : destination i = none) :
    t.vregs = s.vregs := by
  cases h with
  | fatal | message | context => rfl
  | vector hd' => exact absurd (hd.symm.trans hd') (by simp)
  | counter => exact absurd hd (by simp [destination])

theorem destination_ok {i : Instr} {vd : RegField} (hwf : i.wellFormed = true) (hd : destination i = some vd) :
    RegField.ok vd = true := by
  have hmem : vd ∈ i.regs := by cases i <;> simp_all [destination, Instr.regs]
  exact List.all_eq_true.1 hwf vd hmem

theorem Effect.getV_of_ne_destination {i : Instr} {s t : State} (h : Effect s i t) (hwf : i.wellFormed = true) {r : RegField}
    (hr : RegField.ok r = true) (hne : destination i ≠ some r) : t.getV r = s.getV r := by
  cases h with
  | fatal | message | context => rfl
  | @vector _ vd hd x _ =>
    exact getV_setV_other s vd r x (destination_ok hwf hd) hr fun e => hne (e ▸ hd)
  | counter _ vd x =>
    exact getV_setV_other s vd r x (destination_ok hwf rfl) hr fun e => hne (e ▸ rfl)

/-! ### Host register writes and reads -/

theorem writeReg_ctrl_set (s : State) {v : Word} (hv : v.getLsbD 0 = true) : s.writeReg .ctrl v = s.coreReset := by
  simp only [State.writeReg, hv, ↓reduceIte]

theorem writeReg_ctrl_clear (s : State) {v : Word} (hv : v.getLsbD 0 = false) : s.writeReg .ctrl v = s := by
  simp only [State.writeReg, hv, Bool.false_eq_true, ↓reduceIte]

theorem writeReg_busy {s : State} {r : HostReg} (hb : phase s = .busy) (hr : r ≠ .ctrl) (v : Word) : s.writeReg r v = s := by
  simp [State.writeReg, hb, hr]

theorem writeReg_cmd_idle {s : State} (hi : phase s = .idle) (v : Word) : s.writeReg .cmd v = s.acceptCommand v := by
  simp [State.writeReg, hi]

theorem writeReg_cmd_not_idle {s : State} (hi : phase s ≠ .idle) (v : Word) : s.writeReg .cmd v = s := by
  simp [State.writeReg, hi]

theorem writeReg_other {s : State} {r : HostReg} (hb : phase s ≠ .busy) (hctrl : r ≠ .ctrl) (hcmd : r ≠ .cmd) (v : Word) :
    s.writeReg r v = s.writeOperand r v := by
  simp [State.writeReg, hb, hctrl, hcmd]

/-- The registers a host write sets: the operand registers and the halves of the vector registers (10_state R42 (d)). -/
def HostReg.isOperand : HostReg → Bool
  | .cmd | .status | .ctrl | .nonceSize | .overhead | .outLen | .reserved => false
  | .cfgNonceSize | .cfgTagSize | .dstAddr | .srcAddr | .srcLen | .aadAddr | .aadLen | .nonceAddr | .nonceLen => true
  | .vLo _ | .vHi _ => true

theorem writeOperand_of_not_operand (s : State) {r : HostReg} (hr : r.isOperand = false) (v : Word) :
    s.writeOperand r v = s := by
  cases r <;> simp_all [HostReg.isOperand, State.writeOperand]

/-- A write to an operand register keeps all that is none. -/
theorem writeOperand_frame (s : State) (r : HostReg) (v : Word) :
    s.writeOperand r v =
      { s with
        vregs := (s.writeOperand r v).vregs, cfgNonceSize := (s.writeOperand r v).cfgNonceSize,
        cfgTagSize := (s.writeOperand r v).cfgTagSize, dstAddr := (s.writeOperand r v).dstAddr,
        srcAddr := (s.writeOperand r v).srcAddr, srcLen := (s.writeOperand r v).srcLen,
        aadAddr := (s.writeOperand r v).aadAddr, aadLen := (s.writeOperand r v).aadLen,
        nonceAddr := (s.writeOperand r v).nonceAddr, nonceLen := (s.writeOperand r v).nonceLen } := by
  cases r <;> rfl

/-- What a register reads after a write to one: the value if it is that operand register, what it read before otherwise; half a
vector register leaves the other half. -/
theorem readReg_writeOperand (s : State) (r q : HostReg) (v : Word) :
    (s.writeOperand r v).readReg q = if q = r ∧ r.isOperand = true then v else s.readReg q := by
  cases r with
  | vLo n | vHi n =>
    cases q with
    | vLo m | vHi m =>
      simp only [State.writeOperand, State.readReg, Vector.getElem_set, HostReg.isOperand]
      grind
    | _ => rfl
  | _ => cases q <;> rfl

/-- A register that is neither CTRL nor CMD nor an operand register ignores the write, in every phase (10_state R42 (b), (e)). -/
theorem writeReg_of_readOnly (s : State) {r : HostReg} (hctrl : r ≠ .ctrl) (hcmd : r ≠ .cmd) (hop : r.isOperand = false)
    (v : Word) : s.writeReg r v = s := by
  by_cases hb : phase s = .busy
  · exact writeReg_busy hb hctrl v
  · rw [writeReg_other hb hctrl hcmd, writeOperand_of_not_operand s hop]

theorem writeReg_of_operand {s : State} {r : HostReg} (hb : phase s ≠ .busy) (hop : r.isOperand = true) (v : Word) :
    s.writeReg r v = s.writeOperand r v :=
  writeReg_other hb (fun e => by rw [e] at hop; cases hop) (fun e => by rw [e] at hop; cases hop) v

theorem readReg_acceptCommand (s : State) (v : Word) {q : HostReg} (hq : q ≠ .status) :
    (s.acceptCommand v).readReg q = s.readReg q := by
  cases q with
  | status => exact absurd rfl hq
  | _ => rfl

/-- The numbers of the operand registers and of the vector registers' halves (10_state R23, R42 (d)). -/
theorem hostReg_isOperand_iff (n : Nat) :
    (hostReg n).isOperand = true ↔ n = 0x04 ∨ n = 0x05 ∨ (0x08 ≤ n ∧ n ≤ 0x0E) ∨ (0x10 ≤ n ∧ n ≤ 0x1F) := by
  have h : ∀ n < 0x20, (hostReg n).isOperand = true ↔
      n = 0x04 ∨ n = 0x05 ∨ (0x08 ≤ n ∧ n ≤ 0x0E) ∨ (0x10 ≤ n ∧ n ≤ 0x1F) := by decide
  by_cases hn : n < 0x20
  · exact h n hn
  · rw [hostReg_of_ge n (by omega)]
    exact ⟨(fun e => nomatch e), fun e => by omega⟩

/-- What every register number reads after a write to an operand register (10_state R42 (d)). -/
theorem readReg_writeOperand_hostReg (s : State) {n : Nat} (hn : (hostReg n).isOperand = true) (v : Word) (m : Nat) :
    (s.writeOperand (hostReg n) v).readReg (hostReg m) = if m = n then v else s.readReg (hostReg m) := by
  have hres : hostReg n ≠ .reserved := fun e => by rw [e] at hn; cases hn
  have hinj : hostReg m = hostReg n ↔ m = n := ⟨fun e => (hostReg_inj n m e.symm hres).symm, congrArg hostReg⟩
  simp only [readReg_writeOperand, hinj, hn, and_true]

theorem hostReg_vLo : ∀ k : Fin 8, hostReg (0x10 + 2 * k.val) = .vLo k := by decide

theorem hostReg_vHi : ∀ k : Fin 8, hostReg (0x11 + 2 * k.val) = .vHi k := by decide

theorem regIndex_ofNat : ∀ k : Fin 8, regIndex (BitVec.ofNat 4 k.val) = k := by decide

/-- A host register read: all that changes is the model's own record (10_state R41). -/
theorem hostRead_frame (s : State) (n : Nat) :
    s.hostRead n =
      { s with
        seen := .reg n (s.readReg (hostReg n)) :: s.seen, claimedReads := (s.hostRead n).claimedReads,
        claimedWrites := (s.hostRead n).claimedWrites } := by
  unfold State.hostRead
  dsimp only
  split <;> rfl

/-- CMD, CTRL and the reserved numbers read 0 (10_state R41). -/
theorem readReg_eq_zero (s : State) {n : Nat} (hn : n = 0x00 ∨ n = 0x02 ∨ n = 0x03 ∨ 0x20 ≤ n) :
    s.readReg (hostReg n) = 0 := by
  obtain rfl | rfl | hres := hn
  · rfl
  · rfl
  · rw [(hostReg_reserved_iff n).2 hres]; rfl

/-- The two halves of a vector register, by their numbers (10_state R23). -/
theorem readReg_vector (s : State) (k : Fin 8) :
    s.readReg (hostReg (0x10 + 2 * k.val)) = (s.getV (BitVec.ofNat 4 k.val)).low ∧
      s.readReg (hostReg (0x11 + 2 * k.val)) = (s.getV (BitVec.ofNat 4 k.val)).high := by
  rw [hostReg_vLo, hostReg_vHi]
  simp only [State.readReg, State.getV, regIndex_ofNat, and_self]

/-- The STATUS word bit by bit: each bit of the concatenation falls in one of its parts (10_state R25). -/
theorem statusWord_getLsbD (s : State) (k : Nat) :
    (statusWord s).getLsbD k =
      if k = 0 then s.busy else if k = 1 then s.ctx.valid else if k = 2 then s.fault else if k < 8 then false
      else if k < 16 then s.result.getLsbD (k - 8) else if k < 24 then s.fcause.getLsbD (k - 16) else false := by
  simp only [statusWord, BitVec.getLsbD_append, BitVec.getLsbD_ofBool, BitVec.getLsbD_zero]
  grind

/-! ### The step -/

theorem step_of_script_nil {s : State} (h : s.script = []) : step s = coreTurn s := by
  simp [step, h]

theorem step_of_script_cons {s : State} {e : HostEvent} {rest : List HostEvent} (h : s.script = e :: rest) :
    step s = hostStep e { s with script := rest } := by
  simp [step, h]

theorem coreTurn_of_ok {s : State} {i : Instr} (hb : phase s = .busy) (hd : decode s.cmdl = .ok i) :
    coreTurn s = exec i s := by
  simp [coreTurn, commandStep, hb, hd]

theorem coreTurn_of_error {s : State} {e : Illegal} (hb : phase s = .busy) (hd : decode s.cmdl = .error e) :
    coreTurn s = .next (s.raiseFatal .illegalCmd) := by
  simp [coreTurn, commandStep, hb, hd]

theorem coreTurn_of_not_busy {s : State} (hb : phase s ≠ .busy) : coreTurn s = .next s := by
  simp [coreTurn, hb]

theorem phase_idle {s : State} (h : phase s = .idle) : s.busy = false ∧ s.fault = false := by
  unfold phase at h
  split_ifs at h with hf hb
  exact ⟨by simpa using hb, by simpa using hf⟩

end Sys2Proof.Machine
end

section
/-! PROOFS, the state (10_state). Part 2: the invariant and the context, operation by operation. -/

namespace Sys2Proof.Machine

open Sys2Proof.Reference

/-! ### The invariant: one rule per operation on the state -/

theorem ResultCode.code_le (r : ResultCode) : r.code.toNat ≤ 4 := by cases r <;> decide

theorem Cause.code_range (c : Cause) : 1 ≤ c.code.toNat ∧ c.code.toNat ≤ 7 := by cases c <;> decide

theorem State.Inv.start {m : Memory} (hm : Memory.wf m = true) : (State.start m).Inv where
  phases := fun h => nomatch h.1
  causes := .inl ⟨rfl, rfl⟩
  results := Nat.zero_le 4
  context := .inl rfl
  memory := hm

section
variable {s : State} (h : s.Inv)
include h

theorem State.Inv.withScript (l : List HostEvent) : State.Inv { s with script := l } :=
  ⟨h.phases, h.causes, h.results, h.context, h.memory⟩

theorem State.Inv.withDraws (l : List HostEvent) (n : Nat) : State.Inv { s with script := l, draws := n } :=
  ⟨h.phases, h.causes, h.results, h.context, h.memory⟩

theorem State.Inv.withMem {m : Memory} (hm : Memory.wf m = true) : State.Inv { s with mem := m } :=
  ⟨h.phases, h.causes, h.results, h.context, hm⟩

theorem State.Inv.withCtx {c : Context} (hc : c.Legal s.cipher) : State.Inv { s with ctx := c } :=
  ⟨h.phases, h.causes, h.results, hc, h.memory⟩

theorem State.Inv.setV (r : RegField) (x : FieldElement) : (s.setV r x).Inv :=
  ⟨h.phases, h.causes, h.results, h.context, h.memory⟩

theorem State.Inv.setOutLen (n : Nat) : (s.setOutLen n).Inv :=
  ⟨h.phases, h.causes, h.results, h.context, h.memory⟩

theorem State.Inv.request (rs : List CipherRequest) : (s.request rs).Inv :=
  ⟨h.phases, h.causes, h.results, h.context, h.memory⟩

theorem State.Inv.observe (o : Observation) : (s.observe o).Inv :=
  ⟨h.phases, h.causes, h.results, h.context, h.memory⟩

theorem State.Inv.spend (n : Nat) : (s.spend n).Inv :=
  ⟨h.phases, h.causes, h.results, h.context, h.memory⟩

theorem State.Inv.store {out : Bytes} (hout : s.dstAddr.toNat + out.length ≤ addressSpace) : (s.store out).Inv :=
  h.withMem (Memory.wf_writeN out s.mem _ hout h.memory)

/-- A completed command has BUSY 0 and a result code of the table (10_state R27, R44). -/
theorem State.Inv.finish (r : ResultCode) : (s.finish r).Inv where
  phases := fun hb => nomatch hb.1
  causes := h.causes
  results := r.code_le
  context := h.context
  memory := h.memory

/-- A fatal error has BUSY 0 and a cause of the table (10_state R28, 60_exceptions R243). -/
theorem State.Inv.raiseFatal (c : Cause) : (s.raiseFatal c).Inv where
  phases := fun hb => nomatch hb.1
  causes := .inr ⟨rfl, c.code_range⟩
  results := h.results
  context := h.context
  memory := h.memory

theorem State.Inv.coreReset : s.coreReset.Inv where
  phases := fun hb => nomatch hb.1
  causes := .inl ⟨rfl, rfl⟩
  results := Nat.zero_le 4
  context := .inl rfl
  memory := h.memory

/-- BUSY is set in phase IDLE only, where FAULT is 0 (10_state R40, R43). -/
theorem State.Inv.acceptCommand (hi : phase s = .idle) (v : Word) : (s.acceptCommand v).Inv where
  phases := fun hb => by simp [(phase_idle hi).2] at hb
  causes := h.causes
  results := h.results
  context := h.context
  memory := h.memory

theorem State.Inv.writeOperand (r : HostReg) (v : Word) : (s.writeOperand r v).Inv := by
  rw [writeOperand_frame]
  exact ⟨h.phases, h.causes, h.results, h.context, h.memory⟩

theorem State.Inv.writeReg (r : HostReg) (v : Word) : (s.writeReg r v).Inv := by
  obtain e | e | ⟨hi, e⟩ | ⟨-, e⟩ := writeReg_cases s r v <;> rw [e]
  · exact h
  · exact h.coreReset
  · exact h.acceptCommand hi v
  · exact h.writeOperand r v

theorem State.Inv.hostRead (n : Nat) : (s.hostRead n).Inv := by
  rw [hostRead_frame]
  exact ⟨h.phases, h.causes, h.results, h.context, h.memory⟩

theorem State.Inv.effect {i : Instr} {t : State} (heff : Effect s i t) : t.Inv := by
  cases heff with
  | fatal _ c => exact h.raiseFatal c
  | vector _ x reqs => exact ((h.setV _ x).request reqs).finish _
  | counter hout vd x n reqs => exact ((((h.store hout).setV vd x).setOutLen n).request reqs).finish _
  | message _ hout n reqs r => exact (((h.store hout).setOutLen n).request reqs).finish r
  | context hc reqs r => exact ((h.withCtx hc).request reqs).finish r

theorem State.Inv.coreTurn {t : State} (ht : coreTurn s = .next t) : t.Inv := by
  obtain ⟨-, i, -, e⟩ | ⟨-, -, e⟩ | ⟨-, e⟩ := coreTurn_cases s
  · exact h.effect (effect_of_exec (e.symm.trans ht))
  · cases e.symm.trans ht
    exact h.raiseFatal _
  · cases e.symm.trans ht
    exact h

theorem State.Inv.hostWriteMem {addr : Word} {bytes : Bytes} {t : State} (ht : hostWriteMem addr bytes s = .next t) :
    t.Inv := by
  have hm : Memory.wf t.mem = true := hostWriteMem_wf ht h.memory
  rw [hostWriteMem_next ht] at hm ⊢
  exact (h.withMem hm).spend _

theorem State.Inv.hostRseal {dst nlen src len aad alen : Word} {t : State}
    (ht : hostRseal dst nlen src len aad alen s = .next t) : t.Inv := by
  obtain rfl | ⟨-, rfl⟩ := hostRseal_next ht
  · exact h.observe _
  · exact (h.withDraws _ _).spend _

theorem State.Inv.hostRopen {dst nlen src len aad alen : Word} {t : State}
    (ht : hostRopen dst nlen src len aad alen s = .next t) : t.Inv := by
  obtain rfl | rfl | ⟨-, rfl⟩ := hostRopen_next ht
  · exact h.observe _
  · exact h.observe _
  · exact (h.withScript _).spend _

theorem State.Inv.hostStep {e : HostEvent} {t : State} (ht : hostStep e s = .next t) : t.Inv := by
  cases e with
  | writeReg n v => cases ht; exact h.writeReg _ v
  | readReg n => cases ht; exact h.hostRead n
  | writeMem addr bytes => exact h.hostWriteMem ht
  | readMem addr len => rw [hostReadMem_next ht]; exact (h.observe _).spend _
  | resetInput => cases ht; exact h.coreReset
  | coreTurn => exact h.coreTurn ht
  | rseal dst nlen src len aad alen => exact h.hostRseal ht
  | ropen dst nlen src len aad alen => exact h.hostRopen ht

end

/-! ### Who writes the context -/

theorem Context.Legal.clear_or_valid {c : Context} {e : Cipher} (h : c.Legal e) : c = Context.clear ∨ c.valid = true :=
  h.imp_right And.left

theorem writeReg_ctx (s : State) (r : HostReg) (v : Word) :
    (s.writeReg r v).ctx = s.ctx ∨
      ((s.writeReg r v).ctx = Context.clear ∧ r = .ctrl ∧ v.getLsbD 0 = true) := by
  by_cases hr : r = .ctrl
  · subst hr
    cases hv : v.getLsbD 0 with
    | false => exact .inl (by rw [writeReg_ctrl_clear s hv])
    | true => exact .inr ⟨by rw [writeReg_ctrl_set s hv]; rfl, rfl, rfl⟩
  · left
    by_cases hb : phase s = .busy
    · rw [writeReg_busy hb hr]
    · by_cases hc : r = .cmd
      · subst hc
        by_cases hi : phase s = .idle
        · rw [writeReg_cmd_idle hi]; rfl
        · rw [writeReg_cmd_not_idle hi]
      · rw [writeReg_other hb hr hc, writeOperand_frame]

theorem coreTurn_ctx {s t : State} (h : coreTurn s = .next t) :
    t.ctx = s.ctx ∨
      (phase s = .busy ∧ decode s.cmdl = .ok .initCtx ∧ (t.ctx = Context.clear ∨ t.ctx.valid = true)) := by
  obtain ⟨hb, i, hd, e⟩ | ⟨-, -, e⟩ | ⟨-, e⟩ := coreTurn_cases s
  · obtain hctx | ⟨rfl, hlegal⟩ := (effect_of_exec (e.symm.trans h)).ctx_cases
    · exact .inl hctx
    · exact .inr ⟨hb, hd, hlegal.clear_or_valid⟩
  · cases e.symm.trans h
    exact .inl rfl
  · cases e.symm.trans h
    exact .inl rfl

/-- A host event that changes the context is a reset of either kind or the core's turn with INIT latched (10_state R33). -/
theorem hostStep_ctx {e : HostEvent} {s t : State} (h : hostStep e s = .next t) :
    t.ctx = s.ctx ∨
      (t.ctx = Context.clear ∧ (e = .resetInput ∨ ∃ v, e = .writeReg 0x02 v ∧ v.getLsbD 0 = true)) ∨
      (e = .coreTurn ∧ phase s = .busy ∧ decode s.cmdl = .ok .initCtx ∧ (t.ctx = Context.clear ∨ t.ctx.valid = true)) := by
  cases e with
  | writeReg n v =>
    cases h
    obtain hctx | ⟨hctx, hr, hv⟩ := writeReg_ctx s (hostReg n) v
    · exact .inl hctx
    · obtain rfl := (hostReg_ctrl_iff n).1 hr
      exact .inr (.inl ⟨hctx, .inr ⟨v, rfl, hv⟩⟩)
  | readReg n => cases h; exact .inl (by rw [hostRead_frame])
  | writeMem addr bytes => exact .inl (by rw [hostWriteMem_next h]; rfl)
  | readMem addr len => exact .inl (by rw [hostReadMem_next h]; rfl)
  | resetInput => cases h; exact .inr (.inl ⟨rfl, .inl rfl⟩)
  | coreTurn => exact (coreTurn_ctx h).imp_right fun hinit => .inr ⟨rfl, hinit⟩
  | rseal dst nlen src len aad alen => obtain rfl | ⟨-, rfl⟩ := hostRseal_next h <;> exact .inl rfl
  | ropen dst nlen src len aad alen => obtain rfl | rfl | ⟨-, rfl⟩ := hostRopen_next h <;> exact .inl rfl

end Sys2Proof.Machine
end

section
/-! PROOFS, the state (10_state). Part 3: the statements. -/

namespace Sys2Proof.Machine

open Sys2Proof.Reference

/-- Settles O51: the invariant event by event; a command keeps it in each of its effects. -/
theorem everyStepKeepsTheStateInvariant : Obligations.EveryStepKeepsTheStateInvariant := by
  intro s t hs h
  cases hscript : s.script with
  | nil => exact hs.coreTurn ((step_of_script_nil hscript).symm.trans h)
  | cons e rest => exact (hs.withScript rest).hostStep ((step_of_script_cons hscript).symm.trans h)

/-- Settles O41, from the effects of a command. -/
theorem everyCommandEnds : Obligations.EveryCommandEnds := by
  intro i s
  obtain ⟨t, ht, heff⟩ := exec_effect i s
  exact ⟨t, ht, by rw [heff.frame], by rw [heff.frame]⟩

/-- Settles O45: of the effects of a command only INIT's touches the context, and of the host's events only the resets do. -/
theorem onlyInitAndResetWriteTheContext : Obligations.OnlyInitAndResetWriteTheContext := by
  refine ⟨fun i s t hi h => (effect_of_exec h).ctx_cases.resolve_right fun hinit => hi hinit.1, fun s t h => ?_⟩
  cases hscript : s.script with
  | nil =>
    obtain hctx | ⟨hb, hd, hc⟩ := coreTurn_ctx ((step_of_script_nil hscript).symm.trans h)
    · exact .inl hctx
    · exact .inr (.inr ⟨hb, hd, .inl rfl, hc⟩)
  | cons e rest =>
    obtain hctx | ⟨hclear, rfl | ⟨v, rfl, hv⟩⟩ | ⟨rfl, hb, hd, hc⟩ :=
      hostStep_ctx ((step_of_script_cons hscript).symm.trans h)
    · exact .inl hctx
    · exact .inr (.inl ⟨hclear, .inl ⟨rest, rfl⟩⟩)
    · exact .inr (.inl ⟨hclear, .inr ⟨v, rest, rfl, hv⟩⟩)
    · exact .inr (.inr ⟨hb, hd, .inr ⟨rest, rfl⟩, hc⟩)

/-- Settles O46, from the frame of a command's effects. -/
theorem commandsKeepTheOperandRegisters : Obligations.CommandsKeepTheOperandRegisters := by
  intro i s t h
  have heff := effect_of_exec h
  refine ⟨?_, ?_, ?_, ?_, ?_, ?_, ?_, ?_, ?_, heff.outLen_eq⟩ <;> rw [heff.frame]

/-- Settles O47, from a command's effects. -/
theorem onlyTheDestinationRegisterChanges : Obligations.OnlyTheDestinationRegisterChanges := by
  intro i s t hwf h
  have heff := effect_of_exec h
  exact ⟨heff.vregs_of_no_destination, fun r hr hne => heff.getV_of_ne_destination hwf hr hne⟩

/-- Settles O55, clause by clause of R42. -/
theorem registerWritesGoByTheRule : Obligations.RegisterWritesGoByTheRule := by
  intro s n v t
  refine ⟨?ctrl, ?busy, ?cmdFaulted, ?cmdIdle, ?operand, ?readOnly⟩
  case ctrl =>
    rintro rfl
    split
    · next hv =>
      have ht : t = s.coreReset := writeReg_ctrl_set s hv
      rw [ht]; rfl
    · next hv => exact writeReg_ctrl_clear s (by simpa using hv)
  case busy => exact fun hb hn => writeReg_busy hb (mt (hostReg_ctrl_iff n).1 hn) v
  case cmdFaulted =>
    rintro rfl hf
    exact writeReg_cmd_not_idle (by simp [hf]) v
  case cmdIdle =>
    rintro rfl hi
    have ht : t = s.acceptCommand v := writeReg_cmd_idle hi v
    rw [ht]
    exact ⟨rfl, fun m hm => readReg_acceptCommand s v (mt (hostReg_status_iff m).1 hm)⟩
  case operand =>
    intro hb hn
    have hop := (hostReg_isOperand_iff n).2 hn
    have ht : t = s.writeOperand (hostReg n) v := writeReg_of_operand hb hop v
    rw [ht]
    exact ⟨readReg_writeOperand_hostReg s hop v, writeOperand_frame s _ v⟩
  case readOnly =>
    intro hn
    have hop : (hostReg n).isOperand = false := by
      rw [← Bool.not_eq_true, hostReg_isOperand_iff]
      omega
    exact writeReg_of_readOnly s (mt (hostReg_ctrl_iff n).1 (by omega)) (mt (hostReg_cmd_iff n).1 (by omega)) hop v

/-- Settles O5, field by field. -/
theorem resetGivesTheTableOfValues : Obligations.ResetGivesTheTableOfValues := by
  refine ⟨fun s => ?_, fun mem0 => ⟨rfl, rfl⟩⟩
  simp [Context.clear, phase]

/-- Settles O6: both events are the core's reset. -/
theorem resetInputAndSoftResetAreOne : Obligations.ResetInputAndSoftResetAreOne := by
  intro s v rest s'
  refine ⟨rfl, fun hv => ?_, fun hv => ?_, rfl⟩
  · exact congrArg Host.Outcome.next (writeReg_ctrl_set s' hv)
  · exact congrArg Host.Outcome.next (writeReg_ctrl_clear s' hv)

/-- Settles O7: with no host event before it, or with its turn at the head, the core runs the latched word. -/
theorem stepRunsTheDecodedCommand : Obligations.StepRunsTheDecodedCommand := by
  intro s rest hb
  refine ⟨fun i hd => ⟨fun hnil => ?_, ?_⟩, fun e hd => ⟨fun hnil => ?_, ?_⟩⟩
  · rw [step_of_script_nil hnil, coreTurn_of_ok hb hd]
  · exact coreTurn_of_ok (s := { s with script := rest }) hb hd
  · rw [step_of_script_nil hnil, coreTurn_of_error hb hd]; rfl
  · exact coreTurn_of_error (s := { s with script := rest }) hb hd

/-- Settles O8. -/
theorem coreMovesOnlyWhenBusy : Obligations.CoreMovesOnlyWhenBusy := by
  intro s rest hb
  refine ⟨fun hnil => ?_, ?_⟩
  · rw [step_of_script_nil hnil, coreTurn_of_not_busy hb]
  · exact coreTurn_of_not_busy (s := { s with script := rest }) hb

/-- Settles O50: the starting state meets the invariant over every canonical memory, the empty one among them. -/
theorem resetMeetsTheStateInvariant : Obligations.ResetMeetsTheStateInvariant :=
  ⟨.start Memory.wf_reset, fun _ hm => .start hm⟩

/-- Settles O54, from what a write to CMD does in each phase. -/
theorem commandIsAcceptedInIdleOnly : Obligations.CommandIsAcceptedInIdleOnly := by
  intro s v rest s'
  refine ⟨fun hi => ⟨s'.acceptCommand v, ?_, rfl⟩, fun hi => ?_⟩
  · exact congrArg Host.Outcome.next (writeReg_cmd_idle (s := s') hi v)
  · exact congrArg Host.Outcome.next (writeReg_cmd_not_idle (s := s') hi v)

/-- Settles O56: the frame of a read, and the value of each number. -/
theorem registerReadsHaveNoSideEffect : Obligations.RegisterReadsHaveNoSideEffect := by
  intro s n rest
  refine ⟨⟨_, rfl, hostRead_frame { s with script := rest } n⟩, readReg_eq_zero s, ?_, rfl, readReg_vector s⟩
  rintro rfl
  rfl

/-- Settles O57: under the invariant a context that is not valid is the cleared one, whose sizes are 0. -/
theorem accessorsReadZeroWithoutAContext : Obligations.AccessorsReadZeroWithoutAContext := by
  intro s hs
  refine ⟨rfl, rfl, fun hinvalid => ?_⟩
  have hclear : s.ctx = Context.clear := hs.context.clear_or_valid.resolve_right (by simp [hinvalid])
  exact ⟨congrArg Context.nonceSize hclear, congrArg Context.tagSize hclear⟩

/-- Settles O58, from the STATUS word's bits. -/
theorem statusWordHasItsFields : Obligations.StatusWordHasItsFields := by
  intro s
  refine ⟨?_, ?_, ?_, fun k h3 h7 => ?_, ?result, ?fcause, ?top⟩
  · simp only [statusWord_getLsbD, ↓reduceIte]
  · simp only [statusWord_getLsbD, ↓reduceIte, one_ne_zero]
  · simp only [statusWord_getLsbD, ↓reduceIte, OfNat.ofNat_ne_zero, OfNat.ofNat_ne_one]
  · rw [statusWord_getLsbD]
    simp (disch := omega) only [if_neg, if_pos]
  all_goals
    apply BitVec.eq_of_getLsbD_eq
    intro i hi
    simp only [BitVec.getLsbD_extractLsb', statusWord_getLsbD]
    grind

end Sys2Proof.Machine
end

section
/-! PROOFS, memory (20_memory). Every command ends in its fatal error, or stores one byte string at DST_ADDR: the string and its
region are named once, and over another memory that agrees on the input regions both the string and the rest of the state are
the same. -/

namespace Sys2Proof.Machine

open Sys2Proof.Reference

/-! ### The bytes a command stores -/

/-- The bytes a command that ends in no fatal error stores at DST_ADDR (20_memory R70). -/
def output : Instr → State → Bytes
  | .ctrx vd, s => (counterCrypt s.cipher.encrypt (s.bytesOf s.srcRegion) (toBytes (s.getV vd))).1
  | .sealMsg, s => sealBytes s
  | .openMsg, s => if openLengthBad s then [] else (openResult s).getD (zeros s.bodyLen)
  | _, _ => []

theorem output_openMsg_of_bad {s : State} (h : openLengthBad s = true) : output .openMsg s = [] := if_pos h

theorem output_openMsg_of_good {s : State} (h : openLengthBad s = false) :
    output .openMsg s = (openResult s).getD (zeros s.bodyLen) := if_neg (by simp [h])

/-- A tag is at most the 16 bytes of a block (44_gcm R207; log 16). -/
theorem sealBytes_length {s : State} (hts : s.ctx.tagSize.toNat ≤ 16) : (sealBytes s).length = s.srcLen.toNat + s.ts := by
  rw [sealBytes, gcmSeal_length _ (encrypt_length s.cipher), bytesOf_length]
  exact congrArg (s.srcLen.toNat + ·) (Nat.min_eq_left hts)

theorem openResult_getD_length (s : State) : ((openResult s).getD (zeros s.bodyLen)).length = s.bodyLen := by
  cases h : openResult s with
  | none => exact zeros_length s.bodyLen
  | some pt => exact openResult_length h

/-- A command with no output region stores nothing; any other has one, at DST_ADDR, that its output fits into and, for a legal
tag size, fills. -/
theorem output_fits (i : Instr) (s : State) :
    (regionsWritten i s = [] ∧ output i s = []) ∨
      ∃ n, regionsWritten i s = [s.dstRegion n] ∧ (output i s).length ≤ n ∧
        (s.ctx.tagSize.toNat ≤ 16 → (output i s).length = n) := by
  cases i with
  | ctrx vd =>
    have hlen : (output (.ctrx vd) s).length = s.srcLen.toNat := by
      rw [output, counterCrypt_length _ (encrypt_length s.cipher), bytesOf_length]
      rfl
    exact .inr ⟨_, rfl, hlen.le, fun _ => hlen⟩
  | sealMsg => exact .inr ⟨_, rfl, sealBytes_length_le s, sealBytes_length⟩
  | openMsg =>
    cases hbad : openLengthBad s with
    | true => exact .inl ⟨if_pos hbad, output_openMsg_of_bad hbad⟩
    | false =>
      have hlen : (output .openMsg s).length = s.bodyLen := by
        rw [output_openMsg_of_good hbad, openResult_getD_length]
      exact .inr ⟨_, if_neg (by simp [hbad]), hlen.le, fun _ => hlen⟩
  | _ => exact .inl ⟨rfl, rfl⟩

/-- Where the same string was written, what lay there before does not show. -/
theorem Memory.read_writeN_congr {bs : Bytes} {m m' : Memory} {a b : Nat} (hlo : a ≤ b) (hhi : b < a + bs.length) :
    Memory.read (Memory.writeN m a bs) b = Memory.read (Memory.writeN m' a bs) b := by
  obtain ⟨k, rfl⟩ := Nat.exists_eq_add_of_le hlo
  have hk : k < bs.length := Nat.add_lt_add_iff_left.1 hhi
  rw [Memory.read_writeN_inside bs m a k hk, Memory.read_writeN_inside bs m' a k hk]

/-! ### How a command ends -/

/-- A command with the cause `c` of a fatal error, if it has one, ends so: in that error, or with `out` stored at DST_ADDR and no
other change of memory (20_memory R70, 60_exceptions R243). -/
def EndsWith (s : State) (out : Bytes) : Option Cause → Out → Prop
  | some c, o => o = .next (s.raiseFatal c)
  | none, o => ∃ t, o = .next t ∧ t.mem = Memory.writeN s.mem s.dstAddr.toNat out

theorem EndsWith.guarded {s : State} {out : Bytes} {c : Option Cause} {tests : List (Bool × Cause)} {work : State → Out}
    (h : firstFailed tests = none → EndsWith s out c (work s)) :
    EndsWith s out ((firstFailed tests).or c) (guarded tests s work) := by
  obtain ⟨c', hsome, hg⟩ | ⟨hnone, hg⟩ := guarded_cases tests s work
  · rw [hsome]; exact hg
  · rw [hg, hnone]; exact h hnone

/-- A command that is its tests and one way to end past them. -/
theorem EndsWith.tested {s : State} {out : Bytes} {tests : List (Bool × Cause)} {work : State → Out}
    (h : ∃ t, work s = .next t ∧ t.mem = Memory.writeN s.mem s.dstAddr.toNat out) :
    EndsWith s out (firstFailed tests) (Machine.guarded tests s work) := by
  rw [← Option.or_none (o := firstFailed tests)]
  exact .guarded fun _ => h

/-- The same, for a command by name. -/
theorem EndsWith.exec {i : Instr} {s : State} {tests : List (Bool × Cause)} {work : State → Out}
    (he : exec i s = Machine.guarded tests s work) (hc : fatalCause i s = firstFailed tests)
    (h : ∃ t, work s = .next t ∧ t.mem = Memory.writeN s.mem s.dstAddr.toNat (output i s)) :
    EndsWith s (output i s) (fatalCause i s) (exec i s) := by
  rw [he, hc]
  exact .tested h

theorem fatalCause_openMsg (s : State) :
    fatalCause .openMsg s =
      (firstFailed (testsOpenBefore s)).or (if openLengthBad s then none else firstFailed (testsOpenAfter s)) := by
  unfold fatalCause
  cases firstFailed (testsOpenBefore s) <;> rfl

theorem execOpen_endsWith (s : State) : EndsWith s (output .openMsg s) (fatalCause .openMsg s) (execOpen s) := by
  rw [fatalCause_openMsg]
  refine .guarded fun _ => ?_
  cases hbad : openLengthBad s with
  | true =>
    rw [output_openMsg_of_bad hbad]
    exact ⟨_, rfl, rfl⟩
  | false =>
    rw [output_openMsg_of_good hbad, if_neg Bool.false_ne_true, if_neg Bool.false_ne_true]
    refine .tested ?_
    cases openResult s <;> exact ⟨_, rfl, rfl⟩

/-- Every command ends in its fatal error, or stores its output at DST_ADDR (20_memory R70). -/
theorem exec_endsWith (i : Instr) (s : State) : EndsWith s (output i s) (fatalCause i s) (exec i s) := by
  cases i with
  | fadd vd va vb => exact .exec (exec_fadd vd va vb s) rfl ⟨_, rfl, rfl⟩
  | fdbl vd va => exact .exec (exec_fdbl vd va s) rfl ⟨_, rfl, rfl⟩
  | fmul vd va => exact .exec (exec_fmul vd va s) rfl ⟨_, rfl, rfl⟩
  | ghupd vd => exact .exec (exec_ghupd vd s) rfl ⟨_, rfl, rfl⟩
  | ctrx vd => exact .exec (exec_ctrx vd s) rfl ⟨_, rfl, rfl⟩
  | cenc vd va => exact .exec (exec_cenc vd va s) rfl ⟨_, rfl, rfl⟩
  | cinc vd va => exact .exec (exec_cinc vd va s) rfl ⟨_, rfl, rfl⟩
  | initCtx =>
    rw [exec_initCtx]
    unfold execInit
    split_ifs <;> exact ⟨_, rfl, rfl⟩
  | sealMsg => exact .exec (exec_sealMsg s) rfl ⟨_, rfl, rfl⟩
  | openMsg => exact execOpen_endsWith s
  | derive vd => exact .exec (exec_derive vd s) rfl ⟨_, rfl, rfl⟩
  | auth vd va => exact .exec (exec_auth vd va s) rfl ⟨_, rfl, rfl⟩

theorem exec_of_fatalCause {i : Instr} {s : State} {c : Cause} (h : fatalCause i s = some c) :
    exec i s = .next (s.raiseFatal c) := by
  have hend := exec_endsWith i s
  rwa [h] at hend

/-- A command that ends in no fatal error changes memory by its output and nothing else. -/
theorem mem_of_exec {i : Instr} {s t : State} (hc : fatalCause i s = none) (h : exec i s = .next t) :
    t.mem = Memory.writeN s.mem s.dstAddr.toNat (output i s) := by
  have hend := exec_endsWith i s
  rw [hc] at hend
  obtain ⟨u, hu, hmem⟩ := hend
  cases hu.symm.trans h
  exact hmem

/-! ### The same command over another memory -/

/-- The state with its memory replaced. -/
def State.withMem (s : State) (m : Memory) : State := { s with mem := m }

/-- `m` reads as the state's memory does wherever the command may read (20_memory R70). -/
def AgreesOnInputs (i : Instr) (s : State) (m : Memory) : Prop :=
  ∀ r ∈ regionsRead i s, ∀ a, r.addr ≤ a → a < r.addr + r.len → Memory.read m a = Memory.read s.mem a

theorem fatalCause_withMem (i : Instr) (s : State) (m : Memory) : fatalCause i (s.withMem m) = fatalCause i s := by
  cases i <;> rfl

section
variable (s : State) (m : Memory)
@[simp] theorem State.withMem_cfgTagSize : (s.withMem m).cfgTagSize = s.cfgTagSize := rfl
@[simp] theorem State.withMem_cfgNonceSize : (s.withMem m).cfgNonceSize = s.cfgNonceSize := rfl
@[simp] theorem State.withMem_cipher : (s.withMem m).cipher = s.cipher := rfl
@[simp] theorem openLengthBad_withMem : openLengthBad (s.withMem m) = openLengthBad s := rfl
@[simp] theorem bodyLen_withMem : (s.withMem m).bodyLen = s.bodyLen := rfl
end

theorem regionsRead_openMsg_of_good {s : State} (h : openLengthBad s = false) :
    regionsRead .openMsg s = [s.nonceRegion, s.srcRegion, s.aadRegion] := if_neg (by simp [h])

section
variable {i : Instr} {s : State} {m : Memory}

theorem AgreesOnInputs.bytesOf_eq (h : AgreesOnInputs i s m) {r : Region} (hr : r ∈ regionsRead i s) :
    (s.withMem m).bytesOf r = s.bytesOf r := Memory.readN_congr r.len m s.mem r.addr (h r hr)

/-- The three byte strings SEAL and OPEN read are the same in both memories. -/
theorem AgreesOnInputs.message_eq (h : AgreesOnInputs i s m)
    (hr : regionsRead i s = [s.nonceRegion, s.srcRegion, s.aadRegion]) :
    (s.withMem m).bytesOf s.nonceRegion = s.bytesOf s.nonceRegion ∧
      (s.withMem m).bytesOf s.srcRegion = s.bytesOf s.srcRegion ∧
      (s.withMem m).bytesOf s.aadRegion = s.bytesOf s.aadRegion :=
  ⟨h.bytesOf_eq (by simp [hr]), h.bytesOf_eq (by simp [hr]), h.bytesOf_eq (by simp [hr])⟩

theorem AgreesOnInputs.counter0Of_eq (h : AgreesOnInputs i s m)
    (hr : regionsRead i s = [s.nonceRegion, s.srcRegion, s.aadRegion]) : counter0Of (s.withMem m) = counter0Of s :=
  congrArg (deriveCounter · s.ctx.table) (h.message_eq hr).1

theorem AgreesOnInputs.gcmRequests_eq (h : AgreesOnInputs i s m)
    (hr : regionsRead i s = [s.nonceRegion, s.srcRegion, s.aadRegion]) (n : Nat) :
    gcmRequests (s.withMem m) n = gcmRequests s n := by
  unfold gcmRequests
  rw [h.counter0Of_eq hr]

theorem AgreesOnInputs.sealBytes_eq (h : AgreesOnInputs .sealMsg s m) : sealBytes (s.withMem m) = sealBytes s := by
  obtain ⟨hnonce, hsrc, haad⟩ := h.message_eq rfl
  unfold sealBytes
  rw [← hnonce, ← hsrc, ← haad]
  rfl

theorem AgreesOnInputs.openResult_eq (h : AgreesOnInputs .openMsg s m) (hgood : openLengthBad s = false) :
    openResult (s.withMem m) = openResult s := by
  obtain ⟨hnonce, hsrc, haad⟩ := h.message_eq (regionsRead_openMsg_of_good hgood)
  unfold openResult
  rw [← hnonce, ← hsrc, ← haad]
  rfl

/-- What a command stores depends on its input regions only (20_memory R70). -/
theorem AgreesOnInputs.output_eq (h : AgreesOnInputs i s m) : output i (s.withMem m) = output i s := by
  cases i with
  | ctrx vd =>
    have hsrc := h.bytesOf_eq (r := s.srcRegion) (by simp [regionsRead])
    exact congrArg (fun b => (counterCrypt s.cipher.encrypt b (toBytes (s.getV vd))).1) hsrc
  | sealMsg => exact h.sealBytes_eq
  | openMsg =>
    cases hbad : openLengthBad s with
    | true => rw [output_openMsg_of_bad hbad, output_openMsg_of_bad (s := s.withMem m) hbad]
    | false =>
      rw [output_openMsg_of_good hbad, output_openMsg_of_good (s := s.withMem m) hbad, h.openResult_eq hbad,
        bodyLen_withMem]
  | _ => rfl

end

/-! ### The rest of the state over another memory -/

/-- Two runs end in states that differ in memory only. -/
def EndAlike (o o' : Out) : Prop := ∃ t m', o = .next t ∧ o' = .next (t.withMem m')

section
variable {i : Instr} {s : State} {m : Memory}

/-- The tests of a command look at no byte of memory (60_exceptions R242), so it is enough that its work ends alike. -/
theorem EndAlike.guarded {tests : List (Bool × Cause)} {work : State → Out}
    (h : EndAlike (work s) (work (s.withMem m))) : EndAlike (guarded tests s work) (guarded tests (s.withMem m) work) := by
  unfold Machine.guarded
  cases firstFailed tests with
  | none => exact h
  | some c => exact ⟨_, m, rfl, rfl⟩

theorem EndAlike.ite {p : Prop} [Decidable p] {a b a' b' : Out} (ha : EndAlike a a') (hb : EndAlike b b') :
    EndAlike (if p then a else b) (if p then a' else b') := by
  split
  · exact ha
  · exact hb

/-- A command of the vector units ends alike when the element it writes is the same. -/
theorem EndAlike.vector {tests : List (Bool × Cause)} {vd : RegField} {x : State → FieldElement}
    (h : x (s.withMem m) = x s) :
    EndAlike (Machine.guarded tests s fun s => .next ((s.setV vd (x s)).finish .ok))
      (Machine.guarded tests (s.withMem m) fun s => .next ((s.setV vd (x s)).finish .ok)) :=
  .guarded ⟨_, m, rfl, by rw [h]; rfl⟩

theorem AgreesOnInputs.execCtrx_endAlike {vd : RegField} (h : AgreesOnInputs (.ctrx vd) s m) :
    EndAlike (execCtrx vd s) (execCtrx vd (s.withMem m)) := by
  have hsrc : (s.withMem m).bytesOf (s.withMem m).srcRegion = s.bytesOf s.srcRegion :=
    h.bytesOf_eq (r := s.srcRegion) (by simp [regionsRead])
  refine .guarded ?_
  dsimp only
  rw [hsrc]
  exact ⟨_, _, rfl, rfl⟩

theorem AgreesOnInputs.execSeal_endAlike (h : AgreesOnInputs .sealMsg s m) :
    EndAlike (execSeal s) (execSeal (s.withMem m)) := by
  refine .guarded ?_
  rw [h.sealBytes_eq, h.gcmRequests_eq rfl]
  exact ⟨_, _, rfl, rfl⟩

theorem AgreesOnInputs.execOpen_endAlike (h : AgreesOnInputs .openMsg s m) :
    EndAlike (execOpen s) (execOpen (s.withMem m)) := by
  refine .guarded ?_
  cases hbad : openLengthBad s with
  | true =>
    simp only [openLengthBad_withMem, hbad, ↓reduceIte]
    exact ⟨_, m, rfl, rfl⟩
  | false =>
    have hread := regionsRead_openMsg_of_good hbad
    simp only [openLengthBad_withMem, hbad, Bool.false_eq_true, ↓reduceIte]
    refine .guarded ?_
    simp only [h.openResult_eq hbad, h.counter0Of_eq hread, h.gcmRequests_eq hread]
    cases openResult s <;> exact ⟨_, _, rfl, rfl⟩

theorem execInit_endAlike (s : State) (m : Memory) : EndAlike (execInit s) (execInit (s.withMem m)) := by
  have hend (c : Context) (reqs : List CipherRequest) (r : ResultCode) :
      EndAlike (endInit s c reqs r) (endInit (s.withMem m) c reqs r) := ⟨_, m, rfl, rfl⟩
  simp only [execInit, State.withMem_cfgTagSize, State.withMem_cfgNonceSize, State.withMem_cipher]
  exact .ite (hend _ _ _) (.ite (hend _ _ _) (.ite (hend _ _ _) (hend _ _ _)))

/-- Over another memory that agrees on the input regions a command leaves the same state but for memory (20_memory R70). -/
theorem AgreesOnInputs.exec_endAlike (h : AgreesOnInputs i s m) : EndAlike (exec i s) (exec i (s.withMem m)) := by
  cases i with
  | fadd vd va vb => simp only [exec_fadd]; exact .vector rfl
  | fdbl vd va => simp only [exec_fdbl]; exact .vector rfl
  | fmul vd va => simp only [exec_fmul]; exact .vector rfl
  | cinc vd va => simp only [exec_cinc]; exact .vector rfl
  | cenc vd va => simp only [exec_cenc]; exact .guarded ⟨_, m, rfl, rfl⟩
  | ghupd vd =>
    have hsrc := h.bytesOf_eq (r := s.srcRegion) (by simp [regionsRead])
    simp only [exec_ghupd]
    exact .vector (congrArg (update (s.getV vd) · s.ctx.table) hsrc)
  | derive vd =>
    have hnonce := h.bytesOf_eq (r := s.nonceRegion) (by simp [regionsRead])
    simp only [exec_derive]
    exact .vector (congrArg (fun b => fromBytes (deriveCounter b s.ctx.table)) hnonce)
  | auth vd va =>
    have hsrc := h.bytesOf_eq (r := s.srcRegion) (by simp [regionsRead])
    have haad := h.bytesOf_eq (r := s.aadRegion) (by simp [regionsRead])
    simp only [exec_auth]
    exact .vector (congrArg₂ (fun b a => fromBytes (authTag b a (toBytes (s.getV va)) s.ctx.table)) hsrc haad)
  | ctrx => exact h.execCtrx_endAlike
  | initCtx => exact execInit_endAlike s m
  | sealMsg => exact h.execSeal_endAlike
  | openMsg => exact h.execOpen_endAlike

end

/-! ### SEAL past its tests -/

theorem testNonceLen_iff_wrongNonce (s : State) : (testNonceLen s).1 = true ↔ WrongNonce s := by
  rw [testNonceLen_iff, ne_eq, ← BitVec.toNat_inj]
  rfl

theorem sealOverlap_iff (s : State) :
    (inexactOverlap (sealOut s) s.srcRegion || anyOverlap (sealOut s) s.aadRegion) = true ↔ SealOverlap s := by
  rw [Bool.or_eq_true, inexactOverlap_iff, anyOverlap_iff, anyOverlap_iff]
  rfl

theorem testRange_sealRegions_iff (s : State) :
    (testRange [s.nonceRegion, s.srcRegion, s.aadRegion, sealOut s]).1 = true ↔
      PastTop s.nonceAddr s.nonceLen.toNat ∨ PastTop s.srcAddr s.srcLen.toNat ∨ PastTop s.aadAddr s.aadLen.toNat ∨
        PastTop s.dstAddr (s.srcLen.toNat + s.ctx.tagSize.toNat) := by
  rw [testRange_iff]
  simp only [List.exists_mem_cons_iff, List.not_mem_nil, false_and, exists_false, or_false]
  rfl

/-- SEAL ends in no fatal error exactly when none of R248's tests holds. -/
theorem fatalCause_sealMsg_eq_none_iff (s : State) : fatalCause .sealMsg s = none ↔ NoneHolds (tests .sealMsg s) := by
  change firstFailed (testsSeal s) = none ↔ _
  rw [firstFailed_eq_none_iff]
  simp only [testsSeal, NoneHolds, tests, List.forall_mem_cons, List.not_mem_nil, false_implies, implies_true, and_true,
    ← Bool.not_eq_true, testNotReady_iff, testNonceLen_iff_wrongNonce, testMsgTooLarge_iff, testAadTooLarge_iff,
    testRange_sealRegions_iff, sealOverlap_iff]
  rfl

/-- What SEAL leaves at its destination, and OUT_LEN (44_gcm R208). -/
theorem execSeal_stores {s : State} (hts : s.ctx.tagSize.toNat ≤ 16) (hpass : NoneHolds (tests .sealMsg s)) :
    ∃ t, exec .sealMsg s = .next t ∧ t.bytesAt s.dstAddr (s.srcLen.toNat + s.ctx.tagSize.toNat) = sealBytes s ∧
      t.outLen = BitVec.ofNat 64 (s.srcLen.toNat + s.ts) := by
  rw [exec_sealMsg]
  refine ⟨_, guarded_of_none ((fatalCause_sealMsg_eq_none_iff s).2 hpass) s _, ?_, rfl⟩
  have hread := readN_store s (sealBytes s)
  rwa [sealBytes_length hts] at hread

/-! ### The statements -/

/-- Settles O49: the state but for memory ends alike, and the output, which fills the output region, is the same. -/
theorem onlyTheInputRegionsAreRead : Obligations.OnlyTheInputRegionsAreRead := by
  intro i s t t' m hreads ht ht'
  have hagree : AgreesOnInputs i s m := hreads
  refine ⟨?_, fun hc hts r hr a hlo hhi => ?_⟩
  · obtain ⟨u, m', hu, hu'⟩ := hagree.exec_endAlike
    cases hu.symm.trans ht
    cases hu'.symm.trans ht'
    rfl
  · have hmem := mem_of_exec hc ht
    have hmem' := mem_of_exec (s := s.withMem m) ((fatalCause_withMem i s m).trans hc) ht'
    rw [hmem, hmem', hagree.output_eq]
    obtain ⟨hnone, -⟩ | ⟨n, hregion, -, hfull⟩ := output_fits i s
    · simp [hnone] at hr
    · obtain rfl := List.mem_singleton.1 (hregion ▸ hr)
      exact Memory.read_writeN_congr hlo (by rw [hfull hts]; exact hhi)

/-- Settles O48: a fatal error leaves memory as it was, and any other end stores the output, which fits into the output
region. -/
theorem onlyTheOutputRegionIsWritten : Obligations.OnlyTheOutputRegionIsWritten := by
  intro i s t a ht
  cases hc : fatalCause i s with
  | some c =>
    cases (exec_of_fatalCause hc).symm.trans ht
    exact ⟨fun _ => rfl, fun _ => rfl⟩
  | none =>
    refine ⟨fun hfatal => absurd rfl hfatal, fun houtside => ?_⟩
    rw [mem_of_exec hc ht]
    obtain ⟨-, hnil⟩ | ⟨n, hregion, hfits, -⟩ := output_fits i s
    · rw [hnil]; rfl
    · have hout : ¬(s.dstAddr.toNat ≤ a ∧ a < s.dstAddr.toNat + n) := houtside (s.dstRegion n) (by simp [hregion])
      exact Memory.read_writeN_outside _ _ _ _ (by omega)

/-- Settles O40: what SEAL stores is computed before it is stored, from nothing that names the place. -/
theorem sealOutputDoesNotDependOnItsPlace : Obligations.SealOutputDoesNotDependOnItsPlace := by
  intro s d hts hpass hpass'
  obtain ⟨t, ht, hbytes, hlen⟩ := execSeal_stores hts hpass
  obtain ⟨t', ht', hbytes', hlen'⟩ := execSeal_stores (s := { s with dstAddr := d }) hts hpass'
  have hsame : sealBytes { s with dstAddr := d } = sealBytes s := rfl
  exact ⟨t, t', ht, ht', hbytes.trans (hsame.symm.trans hbytes'.symm), hlen.trans hlen'.symm⟩

end Sys2Proof.Machine
end

section
/-! PROOFS, the encoding (30_encoding). A word is its five fields; a word is in a row of the opcode table when each field is legal
there (R96). Both `w & mask = match` and the decoder's answer come down to that, and the statements go through it. -/

namespace Sys2Proof

/-! ### A word and its fields -/

/-- The five fields cover the word (30_encoding R91). -/
theorem word_eq_fields (w : Word) : zeroField w ++ (vbField w ++ (vaField w ++ (vdField w ++ opField w))) = w := by
  unfold zeroField vbField vaField vdField opField
  rw [BitVec.extractLsb'_append_extractLsb'_eq_extractLsb' (show 8 = 0 + 8 from rfl),
    BitVec.extractLsb'_append_extractLsb'_eq_extractLsb' (show 12 = 0 + (4 + 8) from rfl),
    BitVec.extractLsb'_append_extractLsb'_eq_extractLsb' (show 16 = 0 + (4 + (4 + 8)) from rfl),
    BitVec.extractLsb'_append_extractLsb'_eq_extractLsb' (show 20 = 0 + (4 + (4 + (4 + 8))) from rfl)]
  exact BitVec.extractLsb'_eq_self

theorem word_ext_iff {w v : Word} : w = v ↔ zeroField w = zeroField v ∧ opField w = opField v ∧ vdField w = vdField v ∧
    vaField w = vaField v ∧ vbField w = vbField v := by
  refine ⟨by rintro rfl; simp, fun ⟨hzero, hop, hvd, hva, hvb⟩ => ?_⟩
  rw [← word_eq_fields w, hzero, hop, hvd, hva, hvb, word_eq_fields]

section
variable (op : BitVec 8) (vd va vb : RegField)
@[simp] theorem zeroField_wordOf : zeroField (wordOf op vd va vb) = 0 := BitVec.extractLsb'_append_eq_left
@[simp] theorem vbField_wordOf : vbField (wordOf op vd va vb) = vb :=
  (BitVec.extractLsb'_append_eq_of_add_le (by decide)).trans BitVec.extractLsb'_append_eq_left
@[simp] theorem vaField_wordOf : vaField (wordOf op vd va vb) = va :=
  (BitVec.extractLsb'_append_eq_of_add_le (by decide)).trans <|
  (BitVec.extractLsb'_append_eq_of_add_le (by decide)).trans BitVec.extractLsb'_append_eq_left
@[simp] theorem vdField_wordOf : vdField (wordOf op vd va vb) = vd :=
  (BitVec.extractLsb'_append_eq_of_add_le (by decide)).trans <|
  (BitVec.extractLsb'_append_eq_of_add_le (by decide)).trans <|
  (BitVec.extractLsb'_append_eq_of_add_le (by decide)).trans BitVec.extractLsb'_append_eq_left
@[simp] theorem opField_wordOf : opField (wordOf op vd va vb) = op :=
  (BitVec.extractLsb'_append_eq_of_add_le (by decide)).trans <|
  (BitVec.extractLsb'_append_eq_of_add_le (by decide)).trans <|
  (BitVec.extractLsb'_append_eq_of_add_le (by decide)).trans BitVec.extractLsb'_append_eq_right
end

section
variable (w v : Word)
@[simp] theorem zeroField_and : zeroField (w &&& v) = zeroField w &&& zeroField v := BitVec.extractLsb'_and
@[simp] theorem opField_and : opField (w &&& v) = opField w &&& opField v := BitVec.extractLsb'_and
@[simp] theorem vdField_and : vdField (w &&& v) = vdField w &&& vdField v := BitVec.extractLsb'_and
@[simp] theorem vaField_and : vaField (w &&& v) = vaField w &&& vaField v := BitVec.extractLsb'_and
@[simp] theorem vbField_and : vbField (w &&& v) = vbField w &&& vbField v := BitVec.extractLsb'_and
end

/-! ### The rows of the opcode table -/

/-- The opcode of a command's row: the OP field of the row's `match` (30_encoding R95). -/
def Instr.opcode (i : Instr) : BitVec 8 := opField i.rowMatch

/-- What 30_encoding R96 (3) asks of the register field at position `k` (`vd`, `va`, `vb`) in the row of `i`: bit 3 clear where the
format uses the field, 0 where it does not. -/
def Instr.fieldLegal (i : Instr) (k : Nat) (r : RegField) : Bool := if k < i.regs.length then RegField.ok r else r == 0

/-- The nibble of the row's `mask` over the register field at position `k`. -/
def Instr.fieldMask (i : Instr) (k : Nat) : RegField := if k < i.regs.length then 8 else 15

/-- The word `w` has the opcode of the row of `i`, and all its other fields are legal there (30_encoding R96). -/
structure Instr.InRow (i : Instr) (w : Word) : Prop where
  zero : zeroField w = 0
  op : opField w = i.opcode
  vd : i.fieldLegal 0 (vdField w) = true
  va : i.fieldLegal 1 (vaField w) = true
  vb : i.fieldLegal 2 (vbField w) = true

/-- The command of the row of `i` with the registers that the fields of `w` name. -/
def Instr.readFrom (i : Instr) (w : Word) : Instr :=
  match i with
  | .fadd .. => .fadd (vdField w) (vaField w) (vbField w)
  | .fdbl .. => .fdbl (vdField w) (vaField w)
  | .fmul .. => .fmul (vdField w) (vaField w)
  | .ghupd .. => .ghupd (vdField w)
  | .ctrx .. => .ctrx (vdField w)
  | .cenc .. => .cenc (vdField w) (vaField w)
  | .cinc .. => .cinc (vdField w) (vaField w)
  | .initCtx => .initCtx
  | .sealMsg => .sealMsg
  | .openMsg => .openMsg
  | .derive .. => .derive (vdField w)
  | .auth .. => .auth (vdField w) (vaField w)

section
variable (i : Instr) (w : Word)
@[simp] theorem Instr.rowMatch_readFrom : (i.readFrom w).rowMatch = i.rowMatch := by cases i <;> rfl
@[simp] theorem Instr.rowMask_readFrom : (i.readFrom w).rowMask = i.rowMask := by cases i <;> rfl

theorem Instr.rowMatch_eq_wordOf : i.rowMatch = wordOf i.opcode 0 0 0 := by
  cases i <;> simp only [Instr.opcode, Instr.rowMatch] <;> decide

theorem Instr.encode_eq_wordOf : encode i = wordOf i.opcode (i.regs.getD 0 0) (i.regs.getD 1 0) (i.regs.getD 2 0) := by
  cases i <;> rfl

theorem Instr.fields_rowMask : zeroField i.rowMask = BitVec.allOnes 44 ∧ opField i.rowMask = BitVec.allOnes 8 ∧
    vdField i.rowMask = i.fieldMask 0 ∧ vaField i.rowMask = i.fieldMask 1 ∧ vbField i.rowMask = i.fieldMask 2 := by
  cases i <;> simp only [Instr.rowMask, Instr.fieldMask, Instr.regs, List.length_cons, List.length_nil, Nat.reduceAdd,
    Nat.reduceLT, Nat.lt_irrefl, if_true, if_false] <;> decide

theorem Instr.opcode_mem :
    i.opcode.toNat ∈ [0x10, 0x11, 0x12, 0x20, 0x30, 0x31, 0x32, 0x40, 0x41, 0x42, 0x43, 0x44] := by
  cases i <;> simp only [Instr.opcode, Instr.rowMatch] <;> decide
end

theorem RegField.ok_iff_and_eq_zero : ∀ r : RegField, RegField.ok r = true ↔ r &&& 8 = 0 := by decide

theorem Instr.and_fieldMask_eq_zero_iff (i : Instr) (k : Nat) (r : RegField) :
    r &&& i.fieldMask k = 0 ↔ i.fieldLegal k r = true := by
  unfold Instr.fieldMask Instr.fieldLegal
  split
  · exact (RegField.ok_iff_and_eq_zero r).symm
  · have hall : (15 : RegField) = BitVec.allOnes 4 := rfl
    rw [hall, BitVec.and_allOnes, beq_iff_eq]

/-- The `mask` and `match` of a row say that each field of the word is legal in the row. -/
theorem Instr.and_rowMask_eq_rowMatch_iff (i : Instr) (w : Word) : w &&& i.rowMask = i.rowMatch ↔ i.InRow w := by
  obtain ⟨hzero, hop, hvd, hva, hvb⟩ := i.fields_rowMask
  rw [word_ext_iff, i.rowMatch_eq_wordOf]
  simp only [zeroField_and, opField_and, vdField_and, vaField_and, vbField_and, hzero, hop, hvd, hva, hvb, zeroField_wordOf,
    opField_wordOf, vdField_wordOf, vaField_wordOf, vbField_wordOf, BitVec.and_allOnes, i.and_fieldMask_eq_zero_iff]
  exact ⟨fun ⟨h0, h1, h2, h3, h4⟩ => ⟨h0, h1, h2, h3, h4⟩, fun ⟨h0, h1, h2, h3, h4⟩ => ⟨h0, h1, h2, h3, h4⟩⟩

theorem Instr.InRow.rowMatch_eq {i j : Instr} {w : Word} (hi : i.InRow w) (hj : j.InRow w) : i.rowMatch = j.rowMatch := by
  rw [i.rowMatch_eq_wordOf, j.rowMatch_eq_wordOf, ← hi.op, hj.op]

/-- In every row a legal register field has bit 3 clear. -/
theorem Instr.ok_of_fieldLegal {i : Instr} {k : Nat} {r : RegField} (h : i.fieldLegal k r = true) : RegField.ok r = true := by
  unfold Instr.fieldLegal at h
  split at h
  · exact h
  · rw [eq_of_beq h]; rfl

theorem Instr.eq_zero_of_fieldLegal {i : Instr} {k : Nat} {r : RegField} (h : i.fieldLegal k r = true)
    (hk : i.regs.length < k + 1) : r = 0 := by
  rw [Instr.fieldLegal, if_neg (by omega)] at h
  exact eq_of_beq h

/-! ### The word of a command -/

/-- A position the command's format does not use holds 0 in its word, and a used one a register of the command. -/
theorem Instr.fieldLegal_getD_regs {i : Instr} (hwf : i.wellFormed = true) (k : Nat) :
    i.fieldLegal k (i.regs.getD k 0) = true := by
  unfold Instr.fieldLegal
  split
  case isTrue hk =>
    rw [List.getD_eq_getElem _ _ hk]
    exact List.all_eq_true.1 hwf _ (List.getElem_mem hk)
  case isFalse hk => rw [List.getD_eq_default _ _ (by omega)]; rfl

theorem Instr.inRow_encode {i : Instr} (hwf : i.wellFormed = true) : i.InRow (encode i) := by
  rw [i.encode_eq_wordOf]
  exact ⟨by simp, by simp, by simpa using i.fieldLegal_getD_regs hwf 0, by simpa using i.fieldLegal_getD_regs hwf 1,
    by simpa using i.fieldLegal_getD_regs hwf 2⟩

theorem Instr.readFrom_encode (i : Instr) : i.readFrom (encode i) = i := by
  cases i <;> simp [Instr.readFrom, encode]

theorem Instr.InRow.wellFormed_readFrom {i : Instr} {w : Word} (h : i.InRow w) : (i.readFrom w).wellFormed = true := by
  have hvd := Instr.ok_of_fieldLegal h.vd
  have hva := Instr.ok_of_fieldLegal h.va
  have hvb := Instr.ok_of_fieldLegal h.vb
  cases i <;> simp [Instr.readFrom, Instr.wellFormed, Instr.regs, hvd, hva, hvb]

theorem Instr.InRow.encode_readFrom {i : Instr} {w : Word} (h : i.InRow w) : encode (i.readFrom w) = w := by
  obtain ⟨hzero, hop, hvd, hva, hvb⟩ := h
  rw [word_ext_iff, hzero, hop]
  cases i <;> simp_all [Instr.readFrom, encode, Instr.fieldLegal, Instr.regs, Instr.opcode] <;> rfl

/-! ### The decoder -/

theorem checkFields_eq_ok_iff {used unused : List RegField} {i j : Instr} :
    checkFields used unused i = .ok j ↔ used.all RegField.ok = true ∧ unused.all (· == 0) = true ∧ i = j := by
  unfold checkFields
  split_ifs with hused hunused
  · exact ⟨fun h => ⟨hused, hunused, Except.ok.inj h⟩, fun ⟨_, _, hij⟩ => congrArg _ hij⟩
  · exact ⟨nofun, fun ⟨_, hall, _⟩ => absurd hall hunused⟩
  · exact ⟨nofun, fun ⟨hall, _⟩ => absurd hall hused⟩

/-- The decoder's arm for a row: the fields the row's format uses are tested for a register number, the others for 0. -/
theorem decode_of_opcode {w : Word} {i : Instr} (hzero : zeroField w = 0) (hop : opField w = i.opcode) :
    decode w = checkFields ([vdField w, vaField w, vbField w].take i.regs.length)
      ([vdField w, vaField w, vbField w].drop i.regs.length) (i.readFrom w) := by
  unfold decode
  rw [hzero, hop]
  cases i <;> rfl

theorem decode_of_opcode_eq_ok_iff {w : Word} {i j : Instr} (hzero : zeroField w = 0) (hop : opField w = i.opcode) :
    decode w = .ok j ↔ i.InRow w ∧ i.readFrom w = j := by
  have hlegal : i.InRow w ↔
      i.fieldLegal 0 (vdField w) = true ∧ i.fieldLegal 1 (vaField w) = true ∧ i.fieldLegal 2 (vbField w) = true :=
    ⟨fun h => ⟨h.vd, h.va, h.vb⟩, fun ⟨hvd, hva, hvb⟩ => ⟨hzero, hop, hvd, hva, hvb⟩⟩
  rw [decode_of_opcode hzero hop, checkFields_eq_ok_iff, ← and_assoc, hlegal]
  refine and_congr_left fun _ => ?_
  cases i <;> simp [Instr.fieldLegal, Instr.regs, and_assoc]

theorem zeroField_of_decode {w : Word} {i : Instr} (h : decode w = .ok i) : zeroField w = 0 := by
  by_contra hzero
  rw [decode, if_pos hzero] at h
  cases h

theorem exists_opcode_of_decode {w : Word} {i : Instr} (h : decode w = .ok i) : ∃ j : Instr, opField w = j.opcode := by
  by_contra hnone
  have hne (j : Instr) : opField w ≠ j.opcode := fun hj => hnone ⟨j, hj⟩
  have htwelve : opField w ≠ 0x10 ∧ opField w ≠ 0x11 ∧ opField w ≠ 0x12 ∧ opField w ≠ 0x20 ∧ opField w ≠ 0x30 ∧
      opField w ≠ 0x31 ∧ opField w ≠ 0x32 ∧ opField w ≠ 0x40 ∧ opField w ≠ 0x41 ∧ opField w ≠ 0x42 ∧ opField w ≠ 0x43 ∧
      opField w ≠ 0x44 :=
    ⟨hne (.fadd 0 0 0), hne (.fdbl 0 0), hne (.fmul 0 0), hne (.ghupd 0), hne (.ctrx 0), hne (.cenc 0 0), hne (.cinc 0 0),
      hne .initCtx, hne .sealMsg, hne .openMsg, hne (.derive 0), hne (.auth 0 0)⟩
  simp only [decode, zeroField_of_decode h, htwelve, ne_eq, not_true_eq_false, if_false, reduceCtorEq] at h

theorem Instr.InRow.inRow_readFrom {i : Instr} {w : Word} (h : i.InRow w) : (i.readFrom w).InRow w := by
  rwa [← Instr.and_rowMask_eq_rowMatch_iff, i.rowMask_readFrom, i.rowMatch_readFrom, Instr.and_rowMask_eq_rowMatch_iff]

theorem Instr.InRow.decode_readFrom {i : Instr} {w : Word} (h : i.InRow w) : decode w = .ok (i.readFrom w) :=
  (decode_of_opcode_eq_ok_iff h.zero h.op).2 ⟨h, rfl⟩

/-- A decoded word is in its command's row, and the command is read from it. -/
theorem inRow_of_decode {w : Word} {i : Instr} (h : decode w = .ok i) : i.InRow w ∧ i.readFrom w = i := by
  obtain ⟨j, hop⟩ := exists_opcode_of_decode h
  obtain ⟨hrow, rfl⟩ := (decode_of_opcode_eq_ok_iff (zeroField_of_decode h) hop).1 h
  exact ⟨hrow.inRow_readFrom, by cases j <;> rfl⟩

theorem refused_of_not_inRow {w : Word} (h : ∀ i : Instr, ¬i.InRow w) : ∃ e, decode w = .error e := by
  cases hd : decode w with
  | ok i => exact absurd (inRow_of_decode hd).1 (h i)
  | error e => exact ⟨e, rfl⟩

/-! ### The statements -/

/-- Settles O2: the command's word is in the command's row, and its fields name the command's registers. -/
theorem decodeOfEncodeIsTheCommand : Obligations.DecodeOfEncodeIsTheCommand := by
  intro i hwf
  rw [(Instr.inRow_encode hwf).decode_readFrom, i.readFrom_encode]

/-- Settles O3: the command is read from the word's fields, and these are the whole word. -/
theorem encodeOfDecodeIsTheWord : Obligations.EncodeOfDecodeIsTheWord := by
  intro w i h
  obtain ⟨hrow, hread⟩ := inRow_of_decode h
  rw [← hread]
  exact ⟨hrow.wellFormed_readFrom, hrow.encode_readFrom⟩

/-- Settles O4: the mask test and the decoder both say that the word is in the row, and the row's match holds the opcode. -/
theorem wordIsOfARowExactlyWhenItMatches : Obligations.WordIsOfARowExactlyWhenItMatches := by
  refine ⟨fun w j => ⟨fun h => ?_, ?_⟩, fun w i j hi hj => ?_⟩
  · have hrow := (j.and_rowMask_eq_rowMatch_iff w).1 h
    exact ⟨j.readFrom w, hrow.decode_readFrom, j.rowMatch_readFrom w, j.rowMask_readFrom w⟩
  · rintro ⟨i, hd, hmatch, hmask⟩
    rw [← hmatch, ← hmask]
    exact (i.and_rowMask_eq_rowMatch_iff w).2 (inRow_of_decode hd).1
  · exact ((i.and_rowMask_eq_rowMatch_iff w).1 hi).rowMatch_eq ((j.and_rowMask_eq_rowMatch_iff w).1 hj)

/-- Settles O1, by running the decoder on the twelve words. -/
theorem exampleWordsDecode : Obligations.ExampleWordsDecode := by
  unfold Obligations.ExampleWordsDecode
  decide

/-- Settles O9: each of the words is in no row, since a row fixes the zero field and the opcode, and its register fields have bit
3 clear and are 0 where unused. -/
theorem namedIllegalWordsAreRefused : Obligations.NamedIllegalWordsAreRefused := by
  refine ⟨fun w hzero => ?_, fun w hop => ?_, fun w hbit => ?_, fun w i hd => ?_, .unknownOpcode, rfl⟩
  · exact refused_of_not_inRow fun i hrow => hzero hrow.zero
  · exact refused_of_not_inRow fun i hrow => hop (hrow.op ▸ i.opcode_mem : (opField w).toNat ∈ _)
  · refine refused_of_not_inRow fun i hrow => ?_
    have hvd : w.getLsbD 11 = false := by simpa [RegField.ok, vdField] using Instr.ok_of_fieldLegal hrow.vd
    have hva : w.getLsbD 15 = false := by simpa [RegField.ok, vaField] using Instr.ok_of_fieldLegal hrow.va
    have hvb : w.getLsbD 19 = false := by simpa [RegField.ok, vbField] using Instr.ok_of_fieldLegal hrow.vb
    simp only [hvd, hva, hvb, Bool.false_eq_true, or_self] at hbit
  · have hrow := (inRow_of_decode hd).1
    exact ⟨Instr.eq_zero_of_fieldLegal hrow.vb, Instr.eq_zero_of_fieldLegal hrow.va, Instr.eq_zero_of_fieldLegal hrow.vd⟩

end Sys2Proof
end

section
/-! PROOFS, the field (40_field). Coefficient by coefficient, Add is exclusive or and Double is a shift by one degree with the
folded degree 127; what the two do to the polynomials, and the laws, follow from that. A command of the field unit is its tests,
then one vector register. -/

namespace Sys2Proof.Machine

open Sys2Proof.Reference

/-! ### Coefficients -/

/-- The coefficients of degrees 0 to 127 are the bits of the two words. -/
theorem eq_of_coeff_eq {x y : FieldElement} (h : ∀ d < 128, coeff x d = coeff y d) : x = y := by
  have hlow : x.low = y.low := BitVec.eq_of_getLsbD_eq fun i hi => by
    have hd := h (63 - i) (by omega)
    rwa [coeff, coeff, if_pos (by omega), if_pos (by omega), Nat.sub_sub_self (by omega)] at hd
  have hhigh : x.high = y.high := BitVec.eq_of_getLsbD_eq fun i hi => by
    have hd := h (127 - i) (by omega)
    rwa [coeff, coeff, if_neg (by omega), if_neg (by omega), Nat.sub_sub_self (by omega)] at hd
  cases x; cases y; cases hlow; cases hhigh; rfl

@[simp] theorem coeff_zero (d : Nat) : coeff FieldElement.zero d = false := by
  simp [coeff, FieldElement.zero]

@[simp] theorem coeff_add (x y : FieldElement) (d : Nat) : coeff (add x y) d = (coeff x d ^^ coeff y d) := by
  unfold coeff add
  split <;> exact BitVec.getLsbD_xor

/-! ### Double on the two words, and on the coefficients -/

theorem double_high (x : FieldElement) : (double x).high = (x.high >>> 1) ||| (x.low <<< 63) := rfl

theorem double_low (x : FieldElement) :
    (double x).low = if x.high.getLsbD 0 then (x.low >>> 1) ^^^ 0xe100000000000000 else x.low >>> 1 := rfl

/-- The word folded back is `1 + x + x^2 + x^7`: degree `d` is bit `63 - d` of `low`. -/
theorem foldWord_getLsbD :
    ∀ d < 64, (0xe100000000000000 : Word).getLsbD (63 - d) = (d == 0 || d == 1 || d == 2 || d == 7) := by decide

theorem getLsbD_double_low (x : FieldElement) {d : Nat} (hd : d < 64) :
    (double x).low.getLsbD (63 - d) =
      (x.low.getLsbD (63 - d + 1) ^^ (x.high.getLsbD 0 && (d == 0 || d == 1 || d == 2 || d == 7))) := by
  rw [double_low, ← foldWord_getLsbD d hd]
  cases x.high.getLsbD 0 <;> simp [Nat.add_comm 1]

theorem coeff_double_zero (x : FieldElement) : coeff (double x) 0 = coeff x 127 := by
  have hlow := getLsbD_double_low x (d := 0) (by omega)
  simpa [coeff] using hlow

theorem coeff_double_succ (x : FieldElement) {d : Nat} (hd : d < 127) :
    coeff (double x) (d + 1) = (coeff x d ^^ (coeff x 127 && (d + 1 == 1 || d + 1 == 2 || d + 1 == 7))) := by
  obtain hlt | rfl | hgt : d < 63 ∨ d = 63 ∨ 63 < d := by omega
  · have hbit : 63 - (d + 1) + 1 = 63 - d := by omega
    rw [coeff, coeff, coeff, if_pos (by omega), if_pos (by omega), if_neg (by decide), getLsbD_double_low x (by omega), hbit]
    simp
  · simp [coeff, double_high]
  · have hbit : 1 + (127 - (d + 1)) = 127 - d := by omega
    have hfold : (d + 1 == 1 || d + 1 == 2 || d + 1 == 7) = false := by
      simp only [Bool.or_eq_false_iff, beq_eq_false_iff_ne]
      omega
    rw [coeff, coeff, if_neg (by omega), if_neg (by omega), hfold, double_high, BitVec.getLsbD_or, BitVec.getLsbD_ushiftRight,
      BitVec.getLsbD_shiftLeft, hbit, decide_eq_true (show 127 - (d + 1) < 63 by omega)]
    simp

/-! ### The laws of Add and Double (40_field R126) -/

theorem double_add (x y : FieldElement) : double (add x y) = add (double x) (double y) := by
  refine eq_of_coeff_eq fun d hd => ?_
  cases d with
  | zero => simp only [coeff_add, coeff_double_zero]
  | succ d =>
    have hd' : d < 127 := by omega
    simp only [coeff_add, coeff_double_succ _ hd', Bool.and_xor_distrib_right, Bool.xor_assoc, Bool.xor_left_comm]

/-- The coefficient of degree 0 of the double gives degree 127 back, and with it every other degree: x has an inverse. -/
theorem double_injective : Function.Injective double := by
  intro x y h
  have htop : coeff x 127 = coeff y 127 := by rw [← coeff_double_zero, ← coeff_double_zero, h]
  refine eq_of_coeff_eq fun d hd => ?_
  obtain rfl | hlt : d = 127 ∨ d < 127 := by omega
  · exact htop
  · have hsucc : coeff (double x) (d + 1) = coeff (double y) (d + 1) := by rw [h]
    rwa [coeff_double_succ x hlt, coeff_double_succ y hlt, htop, Bool.xor_left_inj] at hsucc

theorem finite_fieldElement : Finite FieldElement :=
  Finite.of_injective (fun x : FieldElement => (x.low, x.high)) fun x y h => by
    cases x; cases y; simpa using h

theorem double_bijective : Function.Bijective double :=
  have := finite_fieldElement
  Finite.injective_iff_bijective.1 double_injective

/-! ### Polynomials over GF(2) -/

section
open Polynomial (X)

theorem polyOf_congr {n : Nat} {c e : Nat → Bool} (h : ∀ d < n, c d = e d) : polyOf n c = polyOf n e :=
  Finset.sum_congr rfl fun d hd => by rw [h d (Finset.mem_range.1 hd)]

theorem polyOf_xor (n : Nat) (c e : Nat → Bool) : polyOf n (fun d => c d ^^ e d) = polyOf n c + polyOf n e := by
  rw [polyOf, polyOf, polyOf, ← Finset.sum_add_distrib]
  refine Finset.sum_congr rfl fun d _ => ?_
  cases c d <;> cases e d <;> simp [CharTwo.add_self_eq_zero]

theorem polyOf_and (n : Nat) (b : Bool) (c : Nat → Bool) :
    polyOf n (fun d => b && c d) = if b then polyOf n c else 0 := by
  cases b <;> simp [polyOf]

/-- The highest degree taken out of the sum. -/
theorem polyOf_succ (n : Nat) (c : Nat → Bool) : polyOf (n + 1) c = polyOf n c + if c n then X ^ n else 0 :=
  Finset.sum_range_succ _ _

/-- Degree 0 taken out of the sum, the others divided by x. -/
theorem polyOf_succ' (n : Nat) (c : Nat → Bool) :
    polyOf (n + 1) c = polyOf n (fun d => c (d + 1)) * X + if c 0 then 1 else 0 := by
  rw [polyOf, polyOf, Finset.sum_range_succ', Finset.sum_mul, pow_zero]
  simp only [ite_mul, zero_mul, pow_succ]

/-- What is folded into degrees 1 to 127, divided by x. -/
theorem polyOf_fold : polyOf 127 (fun d => d + 1 == 1 || d + 1 == 2 || d + 1 == 7) = 1 + X + X ^ 6 := by
  have hdegrees : (Finset.range 127).filter (fun d => (d + 1 == 1 || d + 1 == 2 || d + 1 == 7) = true) = {0, 1, 6} := by
    decide
  rw [polyOf, ← Finset.sum_filter, hdegrees]
  simp [add_assoc]

theorem toPoly_add (x y : FieldElement) : toPoly (add x y) = toPoly x + toPoly y := by
  rw [toPoly, polyOf_congr fun d _ => coeff_add x y d, polyOf_xor]
  rfl

/-- Stated by hand: Lean runs out of recursion depth when it makes the definition's own equation, on account of `X ^ 128`. -/
theorem modulus_eq : modulus = 1 + X + X ^ 2 + X ^ 7 + X ^ 128 := by delta modulus; rfl

/-- Over GF(2) the fold at degree 128, here `m`, is the addition of the modulus to what it replaces. -/
theorem fold_eq_add_fold (p m : Polynomial (ZMod 2)) :
    (p + (1 + X + X ^ 6)) * X + 1 = p * X + m + (1 + X + X ^ 2 + X ^ 7 + m) := by
  have htwo : (2 : Polynomial (ZMod 2)) = 0 := CharTwo.two_eq_zero
  linear_combination -m * htwo

/-- Double takes the product by x back below degree 128 by adding the modulus when degree 127 was set (40_field R128). -/
theorem toPoly_double (x : FieldElement) : toPoly (double x) = toPoly x * X + if coeff x 127 then modulus else 0 := by
  have hdouble : toPoly (double x) =
      (polyOf 127 (coeff x) + if coeff x 127 then 1 + X + X ^ 6 else 0) * X + if coeff x 127 then 1 else 0 := by
    rw [toPoly, polyOf_succ', coeff_double_zero, polyOf_congr fun d hd => coeff_double_succ x hd, polyOf_xor, polyOf_and,
      polyOf_fold]
  have hx : toPoly x = polyOf 127 (coeff x) + if coeff x 127 then X ^ 127 else 0 := polyOf_succ 127 _
  rw [hdouble, hx]
  cases coeff x 127 with
  | false => simp
  | true =>
    have htop : (X : Polynomial (ZMod 2)) ^ 127 * X = X ^ 128 := by rw [← pow_succ]
    rw [if_pos rfl, if_pos rfl, if_pos rfl, if_pos rfl, add_mul _ (X ^ 127), htop, modulus_eq]
    exact fold_eq_add_fold (polyOf 127 (coeff x)) (X ^ 128)

theorem standsFor_toPoly (x : FieldElement) : StandsFor x (toPoly x) := by simp [StandsFor]

theorem standsFor_double {x : FieldElement} {p : Polynomial (ZMod 2)} (h : StandsFor x p) :
    StandsFor (double x) (p * X) := by
  have hsplit : toPoly (double x) - p * X = (toPoly x - p) * X + if coeff x 127 then modulus else 0 := by
    rw [toPoly_double]; ring
  have hfold : modulus ∣ if coeff x 127 then modulus else 0 := by split <;> simp
  rw [StandsFor, hsplit]
  exact dvd_add (h.mul_right X) hfold

theorem standsFor_iterate_double {x : FieldElement} {p : Polynomial (ZMod 2)} (h : StandsFor x p) (k : Nat) :
    StandsFor (double^[k] x) (p * X ^ k) := by
  induction k with
  | zero => simpa using h
  | succ k ih =>
    rw [Function.iterate_succ_apply', pow_succ, ← mul_assoc]
    exact standsFor_double ih

end

/-! ### The word and the end of a command that writes one vector register -/

theorem setWidth_append_eq_or {m n : Nat} (k : Nat) (x : BitVec m) (y : BitVec n) :
    (x ++ y).setWidth k = (x.setWidth k <<< n) ||| y.setWidth k := by
  refine BitVec.eq_of_getLsbD_eq fun i hi => ?_
  rw [BitVec.getLsbD_or, BitVec.getLsbD_shiftLeft, BitVec.getLsbD_setWidth, BitVec.getLsbD_setWidth, BitVec.getLsbD_setWidth,
    BitVec.getLsbD_append]
  split
  case isTrue hlow => simp [hlow]
  case isFalse hhigh => simp [hhigh, hi, show i - n < k by omega, BitVec.getLsbD_of_ge y i (by omega)]

/-- The word as the command rules write it is the word of its fields (30_encoding R91). -/
theorem wordOf_eq_cmdWord (op : BitVec 8) (vd va vb : RegField) : wordOf op vd va vb = cmdWord (op.setWidth 64) vd va vb := by
  have hpad : wordOf op vd va vb = (vb ++ (va ++ (vd ++ op))).setWidth 64 := (BitVec.setWidth_eq_append (by decide)).symm
  have hrev (a b c d : Word) : a ||| (b ||| (c ||| d)) = d ||| c ||| b ||| a := by ac_rfl
  rw [hpad, setWidth_append_eq_or, setWidth_append_eq_or, setWidth_append_eq_or]
  exact hrev _ _ _ _

/-- The frame at the end of a command that writes `vd` and makes the requests `reqs`. -/
theorem vectorFrame_setV (s : State) {vd : RegField} (hvd : RegField.ok vd = true) (x : FieldElement)
    (reqs : List CipherRequest) : VectorFrame s (((s.setV vd x).request reqs).finish .ok) vd reqs :=
  ⟨rfl, fun r hr hne => getV_setV_other s vd r x hvd hr hne, fun _ => rfl⟩

/-- A command of the vector units that passes its tests completes, and changes its register only. -/
theorem guarded_setV {tests : List (Bool × Cause)} (hpass : firstFailed tests = none) {vd : RegField}
    (hvd : RegField.ok vd = true) (s : State) (x : State → FieldElement) :
    ∃ t, guarded tests s (fun s => .next ((s.setV vd (x s)).finish .ok)) = .next t ∧ t.getV vd = x s ∧
      VectorFrame s t vd [] := by
  refine ⟨_, guarded_of_none hpass s _, getV_setV_same s vd _, ?_⟩
  simpa using vectorFrame_setV s hvd (x s) []

/-- Past the register numbers the other tests decide (60_exceptions R244, R248). -/
theorem firstFailed_testRegs {rs : List RegField} (h : ∀ r ∈ rs, RegField.ok r = true) (tests : List (Bool × Cause)) :
    firstFailed (testRegs rs :: tests) = firstFailed tests := by
  rw [testRegs, (regsIllegal_eq_false rs).2 h]
  rfl

/-! ### The statements -/

/-- Settles O14: one Double adds a multiple of the modulus to the product by x; `k` of them by induction on `k`. -/
theorem doubleIsMultiplicationByX : Obligations.DoubleIsMultiplicationByX :=
  ⟨fun a => standsFor_double (standsFor_toPoly a), fun a => standsFor_iterate_double (standsFor_toPoly a), coeff_double_zero,
    fun a _ hd => coeff_double_succ a hd⟩

/-- Settles O15: on each coefficient Add has the laws of exclusive or and Double is additive; Double is injective on a finite set. -/
theorem fieldLawsOfAddAndDouble : Obligations.FieldLawsOfAddAndDouble := by
  refine ⟨fun a b => ?comm, fun a b c => ?assoc, fun a => ?zero, fun a => ?self, double_add, rfl, double_bijective⟩
  case comm => exact eq_of_coeff_eq fun d _ => by rw [coeff_add, coeff_add, Bool.xor_comm]
  case assoc => exact eq_of_coeff_eq fun d _ => by simp only [coeff_add, Bool.xor_assoc]
  case zero => exact eq_of_coeff_eq fun d _ => by rw [coeff_add, coeff_zero, Bool.xor_false]
  case self => exact eq_of_coeff_eq fun d _ => by rw [coeff_add, Bool.xor_self, coeff_zero]

/-- Settles O10: with legal fields FADD passes its only test and writes one register. -/
theorem faddAddsTheElements : Obligations.FaddAddsTheElements := by
  intro vd va vb s hvd hva hvb
  have hpass : firstFailed (testsFadd vd va vb) = none := firstFailed_testRegs (by simp [hvd, hva, hvb]) []
  exact ⟨wordOf_eq_cmdWord 0x10 vd va vb, guarded_setV hpass hvd s fun s => add (s.getV va) (s.getV vb)⟩

/-- Settles O11: with legal fields FDBL passes its only test and writes one register. -/
theorem fdblDoublesTheElement : Obligations.FdblDoublesTheElement := by
  intro vd va s hvd hva
  have hpass : firstFailed (testsFdbl vd va) = none := firstFailed_testRegs (by simp [hvd, hva]) []
  exact ⟨wordOf_eq_cmdWord 0x11 vd va 0, guarded_setV hpass hvd s fun s => double (s.getV va)⟩

/-- Settles O13, from the two words of Double with the carry clear and set. -/
theorem doubleShiftsTheTwoWords : Obligations.DoubleShiftsTheTwoWords := by
  refine fun x => ⟨double_high x, fun hclear => ?_, fun hset => ?_⟩
  · rw [double_low, hclear, if_neg Bool.false_ne_true]
  · rw [double_low, hset, if_pos rfl]

end Sys2Proof.Machine
end

section
/-! PROOFS, the product by the subkey (41_table_mul). One nibble of Mul is four Doubles and one entry of the table, which is
Horner's rule in x^4; and an element is determined by the polynomial it stands for, so that the laws of Mul are laws of
polynomials. -/

namespace Sys2Proof.Machine

open Sys2Proof.Reference

/-! ### ReverseBits -/

theorem getLsbD_reverseBits : ∀ (i : BitVec 4), ∀ k < 4, (reverseBits i).getLsbD k = i.getLsbD (3 - k) := by decide

@[simp] theorem reverseBits_reverseBits (i : BitVec 4) : reverseBits (reverseBits i) = i :=
  BitVec.eq_of_getLsbD_eq fun k hk => by
    rw [getLsbD_reverseBits _ k hk, getLsbD_reverseBits _ (3 - k) (by omega), Nat.sub_sub_self (by omega)]

theorem reverseBits_inj {i j : BitVec 4} : reverseBits i = reverseBits j ↔ i = j :=
  ⟨fun h => by rw [← reverseBits_reverseBits i, h, reverseBits_reverseBits], congrArg reverseBits⟩

/-! ### Polynomials of words, and the element a polynomial stands for -/

section
open Polynomial (X)

/-- The degrees from `m` on taken out of the sum. -/
theorem polyOf_split (m n : Nat) (c : Nat → Bool) :
    polyOf (m + n) c = polyOf m c + polyOf n (fun d => c (m + d)) * X ^ m := by
  rw [polyOf, polyOf, polyOf, Finset.sum_range_add, Finset.sum_mul]
  congr 1
  refine Finset.sum_congr rfl fun d _ => ?_
  rw [ite_mul, zero_mul, ← pow_add, Nat.add_comm m d]

theorem coeff_polyOf (n : Nat) (c : Nat → Bool) (d : Nat) :
    (polyOf n c).coeff d = if d < n ∧ c d = true then 1 else 0 := by
  have hterm (e : Nat) : (if c e then (X : Polynomial (ZMod 2)) ^ e else 0).coeff d =
      if d = e then (if c d then 1 else 0) else 0 := by
    obtain rfl | hne := eq_or_ne d e
    · rw [if_pos rfl]
      split <;> simp
    · rw [if_neg hne]
      split <;> simp [Polynomial.coeff_X_pow, hne]
  rw [polyOf, Polynomial.finsetSum_coeff, Finset.sum_congr rfl fun e _ => hterm e, Finset.sum_ite_eq]
  simp only [Finset.mem_range, ite_and]

theorem toPoly_injective : Function.Injective toPoly := by
  intro x y h
  refine eq_of_coeff_eq fun d hd => ?_
  have hcoeff : (toPoly x).coeff d = (toPoly y).coeff d := by rw [h]
  simp only [toPoly, coeff_polyOf, hd, true_and] at hcoeff
  revert hcoeff
  cases coeff x d <;> cases coeff y d <;> simp

theorem degree_polyOf_lt (n : Nat) (c : Nat → Bool) : (polyOf n c).degree < n :=
  (Polynomial.degree_lt_iff_coeff_zero _ _).2 fun d hd => by rw [coeff_polyOf, if_neg fun h => absurd h.1 (by omega)]

theorem coeff_modulus_top : modulus.coeff 128 ≠ 0 := by
  rw [modulus_eq]
  simp [Polynomial.coeff_one, Polynomial.coeff_X, Polynomial.coeff_X_pow]

theorem degree_toPoly_lt_degree_modulus (x : FieldElement) : (toPoly x).degree < modulus.degree :=
  (degree_polyOf_lt 128 _).trans_le (Polynomial.le_degree_of_ne_zero coeff_modulus_top)

/-- Over any modulus, since Lean runs out of recursion depth where it has to look into `modulus`. -/
theorem eq_of_dvd_sub {m a b p : Polynomial (ZMod 2)} (ha : m ∣ a - p) (hb : m ∣ b - p) (hlt : (a - b).degree < m.degree) :
    a = b := by
  have hdvd : m ∣ a - b := by simpa using dvd_sub ha hb
  exact sub_eq_zero.1 (Polynomial.eq_zero_of_dvd_of_degree_lt hdvd hlt)

/-- The sum of two elements, being their difference, has too low a degree to be a multiple of the modulus unless it is zero. -/
theorem eq_of_standsFor {x y : FieldElement} {p : Polynomial (ZMod 2)} (hx : StandsFor x p) (hy : StandsFor y p) : x = y := by
  have hlt : (toPoly x - toPoly y).degree < modulus.degree := by
    rw [CharTwo.sub_eq_add, ← toPoly_add]
    exact degree_toPoly_lt_degree_modulus _
  exact toPoly_injective (eq_of_dvd_sub hx hy hlt)

theorem standsFor_add {x y : FieldElement} {p q : Polynomial (ZMod 2)} (hx : StandsFor x p) (hy : StandsFor y q) :
    StandsFor (add x y) (p + q) := by
  rw [StandsFor, toPoly_add, add_sub_add_comm]
  exact dvd_add hx hy

theorem toPoly_zero : toPoly FieldElement.zero = 0 := by simp [toPoly, polyOf]

theorem standsFor_zero : StandsFor FieldElement.zero 0 := toPoly_zero ▸ standsFor_toPoly _

/-! ### The shift by four bits (40_field R128, 41_table_mul R144) -/

/-- The element whose high word is the nibble `n`: its terms are those of x^124 to x^127. -/
def topTerms (n : BitVec 4) : FieldElement := { low := 0, high := n.setWidth 64 }

/-- What the entry `n` of the reduction table adds to the accumulator. -/
def folded (n : BitVec 4) : FieldElement := { low := (red n).setWidth 64 <<< 48, high := 0 }

/-- R144: each entry of the reduction table is its nibble's terms after four Doubles. -/
theorem iterate_double_topTerms : ∀ n : BitVec 4, double^[4] (topTerms n) = folded n := by decide

theorem coeff_topTerms_of_lt (n : BitVec 4) {d : Nat} (hd : d < 124) : coeff (topTerms n) d = false := by
  unfold coeff topTerms
  split
  case isTrue => simp
  case isFalse => simp [BitVec.getLsbD_of_ge n (127 - d) (by omega)]

theorem coeff_topTerms_of_ge (z : FieldElement) {d : Nat} (hge : 124 ≤ d) :
    coeff (topTerms (z.high.extractLsb' 0 4)) d = coeff z d := by
  rw [coeff, coeff, if_neg (by omega), if_neg (by omega)]
  simp [topTerms, show 127 - d < 4 by omega, show 127 - d < 64 by omega]

/-- Doubles that fold nothing back shift the coefficients up. -/
theorem coeff_iterate_double {x : FieldElement} (k : Nat) (hk : k ≤ 128)
    (hclear : ∀ d < 128, 128 ≤ d + k → coeff x d = false) :
    ∀ d < 128, coeff (double^[k] x) d = (decide (k ≤ d) && coeff x (d - k)) := by
  induction k with
  | zero => simp
  | succ k ih =>
    intro d hd
    have ih := ih (by omega) fun d hd hge => hclear d hd (by omega)
    have htop : coeff (double^[k] x) 127 = false := by
      rw [ih 127 (by omega), hclear (127 - k) (by omega) (by omega), Bool.and_false]
    rw [Function.iterate_succ_apply']
    cases d with
    | zero => simp [coeff_double_zero, htop]
    | succ d => simp [coeff_double_succ _ (show d < 127 by omega), htop, ih d (by omega)]

/-- Mul's accumulator moved by four bits across its two words, the nibble that leaves `high` lost. -/
def shiftRight4 (z : FieldElement) : FieldElement := { low := z.low >>> 4, high := (z.high >>> 4) ||| (z.low <<< 60) }

theorem shift4_eq_add_folded (z : FieldElement) : shift4 z = add (shiftRight4 z) (folded (z.high.extractLsb' 0 4)) := by
  simp [shift4, add, folded, shiftRight4]

theorem coeff_shiftRight4 (z : FieldElement) {d : Nat} (hd : d < 128) :
    coeff (shiftRight4 z) d = (decide (4 ≤ d) && coeff z (d - 4)) := by
  obtain hlt | ⟨hge, hlt⟩ | ⟨hge, hlt⟩ | hge : d < 4 ∨ (4 ≤ d ∧ d < 64) ∨ (64 ≤ d ∧ d < 68) ∨ 68 ≤ d := by
    omega
  · simp [coeff, shiftRight4, show d < 64 by omega, show ¬ 4 ≤ d by omega, BitVec.getLsbD_of_ge z.low (4 + (63 - d)) (by omega)]
  · have hbit : 4 + (63 - d) = 63 - (d - 4) := by omega
    simp [coeff, shiftRight4, hlt, hge, show d - 4 < 64 by omega, hbit]
  · have hbit : 127 - d - 60 = 63 - (d - 4) := by omega
    simp [coeff, shiftRight4, show ¬ d < 64 by omega, show 4 ≤ d by omega, show d - 4 < 64 by omega,
      show ¬ 127 - d < 60 by omega, show 127 - d < 64 by omega, BitVec.getLsbD_of_ge z.high (4 + (127 - d)) (by omega), hbit,
      BitVec.getLsbD_eq_getElem (show 63 - (d - 4) < 64 by omega)]
  · have hbit : 4 + (127 - d) = 127 - (d - 4) := by omega
    simp [coeff, shiftRight4, show ¬ d < 64 by omega, show 4 ≤ d by omega, show ¬ d - 4 < 64 by omega,
      show 127 - d < 60 by omega, hbit]

/-- Mul's shift by four bits is four Doubles: the terms below x^124 only move, and the nibble's terms are folded back. -/
theorem shift4_eq_iterate_double (z : FieldElement) : shift4 z = double^[4] z := by
  obtain ⟨-, hassoc, hzero, hself, -⟩ := fieldLawsOfAddAndDouble
  obtain ⟨top, htop⟩ : ∃ top, top = topTerms (z.high.extractLsb' 0 4) := ⟨_, rfl⟩
  have hsplit : z = add (add z top) top := by rw [hassoc, hself, hzero]
  have hclear : ∀ d < 128, 128 ≤ d + 4 → coeff (add z top) d = false := fun d _ hd => by
    rw [coeff_add, htop, coeff_topTerms_of_ge z (by omega), Bool.xor_self]
  have hmove : shiftRight4 z = double^[4] (add z top) :=
    eq_of_coeff_eq fun d hd => by
      rw [coeff_shiftRight4 z hd, coeff_iterate_double 4 (by decide) hclear d hd, coeff_add, htop,
        coeff_topTerms_of_lt _ (by omega), Bool.xor_false]
  calc shift4 z
      = add (double^[4] (add z top)) (double^[4] top) := by
        rw [shift4_eq_add_folded, hmove, htop, iterate_double_topTerms]
    _ = double^[4] z := by rw [← Function.Semiconj₂.iterate double_add 4, ← hsplit]

/-! ### The product table (41_table_mul R142, R143) -/

theorem tableGet_tableSet (t : Table) (n m : BitVec 4) (x : FieldElement) :
    tableGet (tableSet t n x) m = if n = m then x else tableGet t m := by
  simp only [tableGet, tableSet, Vector.getElem_set, BitVec.toNat_inj]

/-- The multiple `i·H` in the table `t` of H. -/
def multiple (t : Table) (i : BitVec 4) : FieldElement := tableGet t (reverseBits i)

theorem tableGet_eq_multiple (t : Table) (n : BitVec 4) : tableGet t n = multiple t (reverseBits n) := by
  rw [multiple, reverseBits_reverseBits]

theorem multiple_tableSet (t : Table) (i j : BitVec 4) (x : FieldElement) :
    multiple (tableSet t (reverseBits i) x) j = if i = j then x else multiple t j := by
  simp only [multiple, tableGet_tableSet, reverseBits_inj]

/-- What one turn of the loop leaves in the table: the multiples `i` and `i + 1` are new. -/
theorem multiple_buildTableStep (h : FieldElement) (t : Table) (i j : BitVec 4) :
    multiple (buildTableStep h t i) j =
      if i + 1 = j then add (double (multiple t (i >>> 1))) h
      else if i = j then double (multiple t (i >>> 1)) else multiple t j := by
  rw [buildTableStep, multiple_tableSet, multiple_tableSet, tableGet_tableSet, if_pos rfl]
  rfl

/-- The table holds the multiples below `2m` of `h`: each even one is the Double of its half, each odd one that plus `h`. -/
structure HoldsBelow (h : FieldElement) (m : BitVec 4) (t : Table) : Prop where
  zero : multiple t 0 = FieldElement.zero
  one : multiple t 1 = h
  even : ∀ k < m, multiple t (2 * k) = double (multiple t k)
  odd : ∀ k < m, multiple t (2 * k + 1) = add (multiple t (2 * k)) h

/-- The table before the loop: entry `ReverseBits(1)` is written, the others are zero. -/
def startTable (h : FieldElement) : Table := tableSet (Vector.replicate 16 FieldElement.zero) (reverseBits 1) h

theorem holdsBelow_start (h : FieldElement) : HoldsBelow h 1 (startTable h) := by
  have hzero : multiple (startTable h) 0 = FieldElement.zero := by
    rw [startTable, multiple_tableSet, if_neg (by decide)]
    rfl
  have hone : multiple (startTable h) 1 = h := by rw [startTable, multiple_tableSet, if_pos rfl]
  refine ⟨hzero, hone, fun k hlt => ?_, fun k hlt => ?_⟩
  · obtain rfl : k = 0 := by bv_omega
    calc multiple (startTable h) 0 = double FieldElement.zero := hzero
      _ = double (multiple (startTable h) 0) := by rw [hzero]
  · obtain rfl : k = 0 := by bv_omega
    calc multiple (startTable h) 1 = add FieldElement.zero h := by rw [hone]; simp [add, FieldElement.zero]
      _ = add (multiple (startTable h) 0) h := by rw [hzero]

theorem HoldsBelow.step {h : FieldElement} {m : BitVec 4} {t : Table} (ht : HoldsBelow h m t) (hm : 0 < m ∧ m < 8) :
    HoldsBelow h (m + 1) (buildTableStep h t (2 * m)) := by
  obtain ⟨hpos, hlt⟩ := hm
  have hold {j : BitVec 4} (hj : j < 2 * m) : multiple (buildTableStep h t (2 * m)) j = multiple t j := by
    rw [multiple_buildTableStep, if_neg, if_neg] <;> bv_omega
  have hhalf : (2 * m) >>> 1 = m := by bv_omega
  have heven : multiple (buildTableStep h t (2 * m)) (2 * m) = double (multiple t m) := by
    rw [multiple_buildTableStep, if_neg (by bv_omega), if_pos rfl, hhalf]
  have hodd : multiple (buildTableStep h t (2 * m)) (2 * m + 1) = add (double (multiple t m)) h := by
    rw [multiple_buildTableStep, if_pos rfl, hhalf]
  have hcases {k : BitVec 4} (hk : k < m + 1) : k < m ∨ k = m := by bv_omega
  refine ⟨?_, ?_, fun k hk => ?_, fun k hk => ?_⟩
  · rw [hold (by bv_omega), ht.zero]
  · rw [hold (by bv_omega), ht.one]
  · obtain hlt | rfl := hcases hk
    · rw [hold (by bv_omega), hold (by bv_omega), ht.even k hlt]
    · rw [heven, hold (by bv_omega)]
  · obtain hlt | rfl := hcases hk
    · rw [hold (by bv_omega), hold (by bv_omega), ht.odd k hlt]
    · rw [hodd, heven]

/-- The loop's seven turns, for `i` from 2 to 14. -/
theorem holdsBelow_buildTable (h : FieldElement) : HoldsBelow h 8 (buildTable h) :=
  (((((((holdsBelow_start h).step (by decide)).step (by decide)).step (by decide)).step (by decide)).step
    (by decide)).step (by decide)).step (by decide)

/-- Both of R142's equations at once: the multiple of `i` from that of `i / 2`. -/
theorem multiple_buildTable (h : FieldElement) (i : BitVec 4) : multiple (buildTable h) i =
    if i.getLsbD 0 then add (double (multiple (buildTable h) (i >>> 1))) h else double (multiple (buildTable h) (i >>> 1)) := by
  obtain ⟨-, -, heven, hodd⟩ := holdsBelow_buildTable h
  have hhalf : i >>> 1 < 8 := by bv_omega
  split
  case isTrue hbit =>
    have hi : i = (2 : BitVec 4) * (i >>> 1) + 1 := by revert i; decide
    rw [← heven _ hhalf, ← hodd _ hhalf, ← hi]
  case isFalse hbit =>
    have hi : i = (2 : BitVec 4) * (i >>> 1) := by revert i; decide
    rw [← heven _ hhalf, ← hi]

theorem nibblePoly_eq (i : BitVec 4) : nibblePoly i = nibblePoly (i >>> 1) * X + if i.getLsbD 0 then 1 else 0 := by
  have hhalf : nibblePoly (i >>> 1) = polyOf 3 fun d => i.getLsbD (d + 1) := by
    rw [nibblePoly, polyOf_succ, polyOf_congr fun d _ => BitVec.getLsbD_ushiftRight i 1 d]
    simp [Nat.add_comm 1]
  rw [hhalf, nibblePoly, polyOf_succ']

theorem nibblePoly_zero : nibblePoly 0 = 0 := by simp [nibblePoly, polyOf]

theorem standsFor_multiple (h : FieldElement) (i : BitVec 4) :
    StandsFor (multiple (buildTable h) i) (nibblePoly i * toPoly h) := by
  induction hn : i.toNat using Nat.strong_induction_on generalizing i with
  | _ n ih =>
    obtain rfl | hpos : i = 0 ∨ i >>> 1 < i := by bv_omega
    · rw [(holdsBelow_buildTable h).zero, nibblePoly_zero, zero_mul]
      exact standsFor_zero
    · have hdouble := standsFor_double (ih _ (hn ▸ hpos) (i >>> 1) rfl)
      have hp : nibblePoly (i >>> 1) * X * toPoly h = nibblePoly (i >>> 1) * toPoly h * X := mul_right_comm _ _ _
      rw [multiple_buildTable, nibblePoly_eq i, add_mul, hp]
      split
      case isTrue => simpa using standsFor_add hdouble (standsFor_toPoly h)
      case isFalse => simpa using hdouble

/-! ### Mul (41_table_mul R145, R146) -/

variable {h z y : FieldElement} {p : Polynomial (ZMod 2)}

/-- One nibble is one step of Horner's rule in x^4. -/
theorem standsFor_mulNibble (hz : StandsFor z p) (n : BitVec 4) :
    StandsFor (mulNibble (buildTable h) z n) (p * X ^ 4 + nibblePoly (reverseBits n) * toPoly h) := by
  rw [mulNibble, shift4_eq_iterate_double, tableGet_eq_multiple]
  exact standsFor_add (standsFor_iterate_double hz 4) (standsFor_multiple h _)

/-- The polynomial of the low `k` nibbles of a word, whose lowest bit has the highest degree (40_field R120). -/
noncomputable def wordPoly (k : Nat) (w : Word) : Polynomial (ZMod 2) := polyOf (4 * k) fun d => w.getLsbD (4 * k - 1 - d)

theorem wordPoly_succ (k : Nat) (w : Word) :
    wordPoly (k + 1) w = nibblePoly (reverseBits (w.extractLsb' 0 4)) * X ^ (4 * k) + wordPoly k (w >>> 4) := by
  have hlow : ∀ d < 4 * k, w.getLsbD (4 * (k + 1) - 1 - d) = (w >>> 4).getLsbD (4 * k - 1 - d) := fun d hd => by
    rw [BitVec.getLsbD_ushiftRight]
    congr 1
    omega
  have hhigh : ∀ d < 4, w.getLsbD (4 * (k + 1) - 1 - (4 * k + d)) = (reverseBits (w.extractLsb' 0 4)).getLsbD d := fun d hd => by
    have hbit : 4 * (k + 1) - 1 - (4 * k + d) = 3 - d := by omega
    rw [getLsbD_reverseBits _ d hd, BitVec.getLsbD_extractLsb', hbit]
    simp [show 3 - d < 4 by omega]
  rw [wordPoly, Nat.mul_succ, polyOf_split, ← Nat.mul_succ, polyOf_congr hlow, polyOf_congr hhigh, add_comm]
  rfl

theorem standsFor_mulWord (hz : StandsFor z p) (k : Nat) (w : Word) :
    StandsFor (mulWord (buildTable h) k w z) (p * X ^ (4 * k) + wordPoly k w * toPoly h) := by
  induction k generalizing w z p with
  | zero => simpa [mulWord, wordPoly, polyOf] using hz
  | succ k ih =>
    have hp : p * X ^ (4 * (k + 1)) + wordPoly (k + 1) w * toPoly h =
        (p * X ^ 4 + nibblePoly (reverseBits (w.extractLsb' 0 4)) * toPoly h) * X ^ (4 * k) +
          wordPoly k (w >>> 4) * toPoly h := by
      rw [wordPoly_succ]; ring
    rw [mulWord, hp]
    exact ih (standsFor_mulNibble hz _) _

theorem toPoly_eq_words (y : FieldElement) : toPoly y = wordPoly 16 y.low + wordPoly 16 y.high * X ^ 64 := by
  have hlow : ∀ d < 64, coeff y d = y.low.getLsbD (4 * 16 - 1 - d) := fun d hd => if_pos hd
  have hhigh : ∀ d < 64, coeff y (64 + d) = y.high.getLsbD (4 * 16 - 1 - d) := fun d hd => by
    rw [coeff, if_neg (by omega)]
    congr 1
    omega
  rw [toPoly, polyOf_split 64 64, polyOf_congr hlow, polyOf_congr hhigh]
  rfl

/-- R146, for any polynomial that `y` stands for. -/
theorem standsFor_mul (hy : StandsFor y p) : StandsFor (mul y (buildTable h)) (p * toPoly h) := by
  have hmul : StandsFor (mul y (buildTable h)) (toPoly y * toPoly h) := by
    have hwords := standsFor_mulWord (h := h) (standsFor_mulWord (h := h) standsFor_zero 16 y.high) 16 y.low
    have hp : (0 * X ^ (4 * 16) + wordPoly 16 y.high * toPoly h) * X ^ (4 * 16) + wordPoly 16 y.low * toPoly h =
        toPoly y * toPoly h := by
      rw [toPoly_eq_words y]; ring
    rwa [hp] at hwords
  have hsplit : toPoly (mul y (buildTable h)) - p * toPoly h =
      (toPoly (mul y (buildTable h)) - toPoly y * toPoly h) + (toPoly y - p) * toPoly h := by ring
  rw [StandsFor, hsplit]
  exact dvd_add hmul (hy.mul_right _)

/-- The field's 1. -/
def fieldOne : FieldElement := { low := 0x8000000000000000, high := 0 }

theorem standsFor_one : StandsFor fieldOne 1 := by
  have hcoeff : ∀ d < 128, coeff fieldOne d = (d == 0) := by decide
  have hone : toPoly fieldOne = 1 := by
    rw [toPoly, polyOf_congr hcoeff, polyOf_succ']
    simp [polyOf]
  exact hone ▸ standsFor_toPoly fieldOne

end

/-! ### The statements -/

/-- Settles O17: the entries one by one, and each as four Doubles of its nibble's terms. -/
theorem reductionTableFoldsTheDroppedNibble : Obligations.ReductionTableFoldsTheDroppedNibble := by
  refine ⟨by decide, fun n => ?_⟩
  have hfold := standsFor_iterate_double (standsFor_toPoly (topTerms n)) 4
  rwa [iterate_double_topTerms] at hfold

/-- Settles O18: the equations of R143's loop, and from them the multiples by induction on `i`, halving it. -/
theorem tableHoldsTheMultiplesOfTheSubkey : Obligations.TableHoldsTheMultiplesOfTheSubkey := by
  intro h
  obtain ⟨hzero, hone, heven, hodd⟩ := holdsBelow_buildTable h
  exact ⟨standsFor_multiple h, fun k hk => ⟨heven k hk, hodd k hk⟩, hzero, hone⟩

/-- Settles O19: Horner's rule over the nibbles gives the product; its consequences hold since the two sides stand for one
polynomial. -/
theorem mulIsTheFieldProduct : Obligations.MulIsTheFieldProduct := by
  refine fun h => ⟨fun y => standsFor_mul (standsFor_toPoly y), fun z => standsFor_mulNibble (standsFor_toPoly z),
    ?zero, ?one, ?x, fun a b => ?sum⟩
  case zero =>
    have hmul := standsFor_mul (h := h) standsFor_zero
    rw [zero_mul] at hmul
    exact eq_of_standsFor hmul standsFor_zero
  case one =>
    have hmul := standsFor_mul (h := h) standsFor_one
    rw [one_mul] at hmul
    exact eq_of_standsFor hmul (standsFor_toPoly h)
  case x =>
    have hmul := standsFor_mul (h := h) (standsFor_double standsFor_one)
    rw [one_mul, mul_comm] at hmul
    exact eq_of_standsFor hmul (standsFor_double (standsFor_toPoly h))
  case sum =>
    have hmul := standsFor_mul (h := h) (standsFor_add (standsFor_toPoly a) (standsFor_toPoly b))
    rw [add_mul] at hmul
    exact eq_of_standsFor hmul (standsFor_add (standsFor_mul (standsFor_toPoly a)) (standsFor_mul (standsFor_toPoly b)))

/-- Settles O12: with legal fields the context decides; with one, FMUL passes its tests and writes one register. -/
theorem fmulMultipliesByTheSubkey : Obligations.FmulMultipliesByTheSubkey := by
  intro vd va s hvd hva
  have hcause : fatalCause (.fmul vd va) s = if s.ctx.valid then none else some .notReady := by
    rw [fatalCause, testsFmul, firstFailed_testRegs (by simp [hvd, hva]), testNotReady, firstFailed_cons, firstFailed_nil]
    cases s.ctx.valid <;> rfl
  refine ⟨wordOf_eq_cmdWord 0x12 vd va 0, fun hinvalid => ?_, fun hvalid => ?_⟩
  · rw [hinvalid] at hcause
    exact exec_of_fatalCause hcause
  · rw [hvalid] at hcause
    exact guarded_setV hcause hvd s fun s => mul (s.getV va) s.ctx.table

/-- Settles O16: bit by bit; a reversal undoes itself; the sixteen values are evaluated. -/
theorem reverseBitsReversesTheNibble : Obligations.ReverseBitsReversesTheNibble := by
  refine ⟨fun i => ?_, by decide⟩
  have hbit := getLsbD_reverseBits i
  exact ⟨hbit 0 (by decide), hbit 1 (by decide), hbit 2 (by decide), hbit 3 (by decide), reverseBits_reverseBits i⟩

end Sys2Proof.Machine
end

section
/-! PROOFS, GHASH (42_ghash). UpdateBlocks goes block by block; Update is UpdateBlocks of the data padded with zeros to whole
blocks, so that what Update does to an appended string is said by what the padding does to it. With the table of H each block is
one step of Horner's rule in H. -/

namespace Sys2Proof.Machine

open Sys2Proof.Reference

/-! ### Strings of zeros -/

theorem zeros_append_zeros (m n : Nat) : zeros m ++ zeros n = zeros (m + n) := List.replicate_append_replicate

theorem take_zeros (m n : Nat) : (zeros n).take m = zeros (min m n) := List.take_replicate

theorem drop_zeros (m n : Nat) : (zeros n).drop m = zeros (n - m) := List.drop_replicate

theorem getD_zeros (n i : Nat) : (zeros n).getD i 0 = 0 := by
  rw [zeros, List.getD_eq_getElem?_getD, List.getElem?_replicate]
  split <;> rfl

theorem be64_zeros (n : Nat) : be64 (zeros n) = 0 := by
  simp only [be64, getD_zeros]
  rfl

theorem fromBytes_zeros (n : Nat) : fromBytes (zeros n) = FieldElement.zero := by
  rw [fromBytes, take_zeros, drop_zeros, be64_zeros, be64_zeros]
  rfl

/-! ### UpdateBlocks, block by block (42_ghash R160) -/

@[simp] theorem updateBlocks_nil (y : FieldElement) (t : Table) : updateBlocks y [] t = y := rfl

theorem updateBlocks_block_append (t : Table) (y : FieldElement) {b : Bytes} (hb : b.length = 16) (rest : Bytes) :
    updateBlocks y (b ++ rest) t = updateBlocks (absorb t y b) rest t := by
  have hcount : (b ++ rest).length / 16 = rest.length / 16 + 1 := by
    rw [List.length_append, hb, Nat.add_div_left _ (by decide)]
  rw [updateBlocks, hcount, updateBlocksN, List.take_left' hb, List.drop_left' hb, updateBlocks]

/-- Whole blocks are absorbed before what follows them (42_ghash R160). -/
theorem updateBlocks_append (t : Table) (y : FieldElement) {a : Bytes} (ha : a.length % 16 = 0) (b : Bytes) :
    updateBlocks y (a ++ b) t = updateBlocks (updateBlocks y a t) b t := by
  induction hk : a.length / 16 generalizing a y with
  | zero =>
    obtain rfl : a = [] := List.eq_nil_of_length_eq_zero (by omega)
    rfl
  | succ k ih =>
    have hblock : (a.take 16).length = 16 := by rw [List.length_take]; omega
    have hrest := List.length_drop (i := 16) (l := a)
    rw [← List.take_append_drop 16 a, List.append_assoc, updateBlocks_block_append t y hblock,
      updateBlocks_block_append t y hblock, ih _ (by omega) (by omega)]

/-! ### Update is UpdateBlocks of the padded data (42_ghash R162) -/

/-- The data with zeros up to the end of its last block; whole blocks get none. -/
def zeroPadded (data : Bytes) : Bytes := data ++ zeros ((16 - data.length % 16) % 16)

theorem zeroPadded_of_whole {data : Bytes} (h : data.length % 16 = 0) : zeroPadded data = data := by
  rw [zeroPadded, h]
  exact List.append_nil data

theorem zeroPadded_of_partial {data : Bytes} (h : data.length % 16 ≠ 0) :
    zeroPadded data = data ++ zeros (16 - data.length % 16) := by
  rw [zeroPadded, Nat.mod_eq_of_lt (by omega)]

theorem zeroPadded_append {a : Bytes} (ha : a.length % 16 = 0) (b : Bytes) : zeroPadded (a ++ b) = a ++ zeroPadded b := by
  rw [zeroPadded, zeroPadded, List.length_append, Nat.add_mod, ha, Nat.zero_add, Nat.mod_mod, List.append_assoc]

/-- Zeros that stay within the last block are among those of the padding (42_ghash R163 (5)). -/
theorem zeroPadded_append_zeros {data : Bytes} {k : Nat} (hpartial : data.length % 16 ≠ 0) (hk : k ≤ 16 - data.length % 16) :
    zeroPadded (data ++ zeros k) = zeroPadded data := by
  have hpad : k + (16 - (data.length + k) % 16) % 16 = 16 - data.length % 16 := by omega
  rw [zeroPadded_of_partial hpartial, zeroPadded, List.length_append, zeros_length, List.append_assoc, zeros_append_zeros, hpad]

theorem update_eq_updateBlocks_zeroPadded (t : Table) (y : FieldElement) (data : Bytes) :
    update y data t = updateBlocks y (zeroPadded data) t := by
  rw [update]
  split
  case isTrue hpartial =>
    have hfull : (data.take (data.length / 16 * 16)).length % 16 = 0 := by
      rw [List.length_take, Nat.min_eq_left (Nat.div_mul_le_self _ _), Nat.mul_mod_left]
    have hpad : data.length - data.length / 16 * 16 = data.length % 16 := by omega
    rw [← updateBlocks_append t y hfull, ← List.append_assoc, List.take_append_drop, hpad, ← zeroPadded_of_partial (by omega)]
  case isFalse hwhole =>
    have hfull : data.length / 16 * 16 = data.length := (not_not.1 hwhole).symm
    rw [hfull, List.take_length, zeroPadded_of_whole (by omega)]

theorem update_of_whole (t : Table) (y : FieldElement) {data : Bytes} (h : data.length % 16 = 0) :
    update y data t = updateBlocks y data t := by
  rw [update_eq_updateBlocks_zeroPadded, zeroPadded_of_whole h]

/-- Update splits at a block boundary (42_ghash R163 (4)). -/
theorem update_update (t : Table) (y : FieldElement) {a : Bytes} (ha : a.length % 16 = 0) (b : Bytes) :
    update (update y a t) b t = update y (a ++ b) t := by
  rw [update_of_whole t y ha, update_eq_updateBlocks_zeroPadded, update_eq_updateBlocks_zeroPadded, zeroPadded_append ha,
    updateBlocks_append t y ha]

/-! ### With the table of H: Horner's rule, and zeros (42_ghash R163 (3), (6)) -/

theorem standsFor_absorb {h y : FieldElement} {p : Polynomial (ZMod 2)} (hy : StandsFor y p) (b : Bytes) :
    StandsFor (absorb (buildTable h) y b) ((p + toPoly (fromBytes b)) * toPoly h) :=
  standsFor_mul (standsFor_add hy (standsFor_toPoly _))

@[simp] theorem ghashPoly_nil (h : Polynomial (ZMod 2)) : ghashPoly h [] = 0 := rfl

/-- By one unfolding on the left: `rfl` and the definition's own equation run out of recursion depth. -/
theorem ghashPoly_cons (h : Polynomial (ZMod 2)) (b : Bytes) (bs : List Bytes) :
    ghashPoly h (b :: bs) = toPoly (fromBytes b) * h ^ (bs.length + 1) + ghashPoly h bs := by
  conv_lhs => unfold ghashPoly

/-- From any start, which the blocks move up by one power of H each. -/
theorem standsFor_updateBlocks_flatten {h y : FieldElement} {p : Polynomial (ZMod 2)} (hy : StandsFor y p) {blocks : List Bytes}
    (hblocks : ∀ b ∈ blocks, b.length = 16) :
    StandsFor (updateBlocks y blocks.flatten (buildTable h))
      (p * toPoly h ^ blocks.length + ghashPoly (toPoly h) blocks) := by
  induction blocks generalizing y p with
  | nil => rwa [ghashPoly_nil, List.length_nil, pow_zero, mul_one, add_zero]
  | cons b bs ih =>
    obtain ⟨hb, hbs⟩ := List.forall_mem_cons.1 hblocks
    have hp : p * toPoly h ^ (bs.length + 1) + ghashPoly (toPoly h) (b :: bs) =
        (p + toPoly (fromBytes b)) * toPoly h * toPoly h ^ bs.length + ghashPoly (toPoly h) bs := by
      rw [ghashPoly_cons]; ring
    rw [List.flatten_cons, updateBlocks_block_append _ _ hb, List.length_cons, hp]
    exact ih (standsFor_absorb hy b) hbs

theorem flatten_length_of_blocks {blocks : List Bytes} (hblocks : ∀ b ∈ blocks, b.length = 16) :
    blocks.flatten.length % 16 = 0 := by
  rw [List.length_flatten, List.map_congr_left hblocks, List.map_const', List.sum_replicate, smul_eq_mul, Nat.mul_mod_left]

theorem absorb_zeros (h : FieldElement) (n : Nat) : absorb (buildTable h) FieldElement.zero (zeros n) = FieldElement.zero := by
  obtain ⟨-, -, hzero, -⟩ := mulIsTheFieldProduct h
  rw [absorb, fromBytes_zeros]
  exact hzero

theorem updateBlocksN_zeros (h : FieldElement) (k n : Nat) :
    updateBlocksN (buildTable h) k FieldElement.zero (zeros n) = FieldElement.zero := by
  induction k generalizing n with
  | zero => rfl
  | succ k ih =>
    rw [updateBlocksN, take_zeros, drop_zeros, absorb_zeros, ih]

/-! ### The tests of a command that needs a context and reads one region (60_exceptions R246, R251) -/

theorem firstFailed_testNotReady (s : State) (tests : List (Bool × Cause)) :
    firstFailed (testNotReady s :: tests) = if s.ctx.valid then firstFailed tests else some .notReady := by
  rw [testNotReady, firstFailed_cons]
  cases s.ctx.valid <;> rfl

theorem firstFailed_testRange (r : Region) :
    firstFailed [testRange [r]] = if 2 ^ 64 < r.addr + r.len then some .range else none := by
  have hrange : (testRange [r]).1 = true ↔ 2 ^ 64 < r.addr + r.len := by simp [testRange_iff]
  have hpair : testRange [r] = ((testRange [r]).1, .range) := rfl
  rw [hpair, firstFailed_cons, firstFailed_nil]
  simp only [hrange]

/-! ### The statements -/

/-- Settles O21: the block recursion; Update goes through the padded data, on which a split at a block boundary and zeros within
the last block are read off. -/
theorem updateGoesBlockByBlockAndPadsWithZeros : Obligations.UpdateGoesBlockByBlockAndPadsWithZeros := by
  intro t y
  refine ⟨updateBlocks_nil y t, update_of_whole t y rfl, fun b rest hb _ => updateBlocks_block_append t y hb rest,
    fun data => update_of_whole t y, fun a b ha => update_update t y ha b, fun data k hpartial hk => ?_⟩
  rw [update_eq_updateBlocks_zeroPadded, zeroPadded_append_zeros hpartial hk, ← update_eq_updateBlocks_zeroPadded]

/-- Settles O22: Horner's rule in H from zero; zeros absorbed into zero leave zero, the padding being zeros too. -/
theorem ghashIsThePolynomialInTheSubkey : Obligations.GhashIsThePolynomialInTheSubkey := by
  refine fun h => ⟨fun blocks hblocks => ?_, fun n => ?_⟩
  · have hhorner := standsFor_updateBlocks_flatten (h := h) standsFor_zero hblocks
    rwa [zero_mul, zero_add, ← update_of_whole _ _ (flatten_length_of_blocks hblocks)] at hhorner
  · rw [update_eq_updateBlocks_zeroPadded, zeroPadded, zeros_append_zeros]
    exact updateBlocksN_zeros h _ _

/-- Settles O20: with a legal field the context decides first, then the source region; past both, GHUPD writes one register. -/
theorem ghupdAbsorbsTheSource : Obligations.GhupdAbsorbsTheSource := by
  intro vd s hvd
  have hcause : fatalCause (.ghupd vd) s =
      if s.ctx.valid then if 2 ^ 64 < s.srcAddr.toNat + s.srcLen.toNat then some .range else none else some .notReady := by
    rw [fatalCause, testsGhupd, firstFailed_testRegs (by simp [hvd]), firstFailed_testNotReady, firstFailed_testRange]
    rfl
  refine ⟨wordOf_eq_cmdWord 0x20 vd 0 0, fun hinvalid => ?_, fun hvalid hpast => ?_, fun hvalid hfits => ?_⟩
  · rw [if_neg (by simp [hinvalid])] at hcause
    exact exec_of_fatalCause hcause
  · rw [if_pos hvalid, if_pos hpast] at hcause
    exact exec_of_fatalCause hcause
  · rw [if_pos hvalid, if_neg (by omega)] at hcause
    exact guarded_setV hcause hvd s fun s => update (s.getV vd) (s.bytesOf s.srcRegion) s.ctx.table

end Sys2Proof.Machine
end

section
/-! PROOFS, counter mode (43_ctr). Inc32 on a block adds one to its count and on a register to `high[31:0]`; counterCrypt is one
exclusive or per byte, with a mask byte that depends on the place of the byte only, from which its own laws are read off. A
command of the counter-mode unit is its tests, then the state it leaves. -/

namespace Sys2Proof.Machine

open Sys2Proof.Reference

/-! ### Inc32 on a block (43_ctr R170) -/

theorem inc32_take {c : Bytes} (hc : c.length = 16) : (inc32 c).take 12 = c.take 12 :=
  List.take_left' (by rw [List.length_take, hc]; rfl)

theorem be32_drop_inc32 {c : Bytes} (hc : c.length = 16) : be32 ((inc32 c).drop 12) = be32 (c.drop 12) + 1 := by
  have hsplit : (c.take 12).length = 12 := by rw [List.length_take, hc]; rfl
  have hcount : (c.drop 12).take 4 = c.drop 12 := List.take_of_length_le (by rw [List.length_drop, hc])
  rw [inc32, List.drop_left' hsplit, be32_bytes4, hcount]

theorem incBy_eq_iterate (k : Nat) (c : Bytes) : incBy k c = inc32^[k] c := by
  induction k generalizing c with
  | zero => rfl
  | succ k ih => rw [incBy, ih, Function.iterate_succ_apply]

theorem counterBlocks_eq_map (k : Nat) (c : Bytes) : counterBlocks k c = (List.range k).map fun j => inc32^[j] c := by
  induction k generalizing c with
  | zero => rfl
  | succ k ih => rw [counterBlocks, ih, List.range_succ_eq_map, List.map_cons, List.map_map]; rfl

/-- The count after `k` increments (43_ctr R172). -/
theorem toNat_count_iterate (k : Nat) {c : Bytes} (hc : c.length = 16) :
    (be32 ((inc32^[k] c).drop 12)).toNat = ((be32 (c.drop 12)).toNat + k) % 2 ^ 32 := by
  induction k generalizing c with
  | zero => exact (Nat.mod_eq_of_lt (BitVec.isLt _)).symm
  | succ k ih =>
    have hone : (1 : BitVec 32).toNat = 1 := rfl
    rw [Function.iterate_succ_apply, ih (inc32_length c hc), be32_drop_inc32 hc, BitVec.toNat_add, hone]
    omega

/-- The count tells apart the first 2^32 increments of a block (43_ctr R173). -/
theorem iterate_inc32_inj {c : Bytes} (hc : c.length = 16) {j k : Nat} (hj : j < 2 ^ 32) (hk : k < 2 ^ 32)
    (h : inc32^[j] c = inc32^[k] c) : j = k := by
  have hcount := toNat_count_iterate j hc
  rw [h, toNat_count_iterate k hc] at hcount
  omega

/-! ### Inc32 on a register (43_ctr R170, R175) -/

theorem extractLsb'_extractLsb' {n m k i : Nat} (j : Nat) (x : BitVec n) (h : i + k ≤ m) :
    (x.extractLsb' j m).extractLsb' i k = x.extractLsb' (j + i) k := by
  refine BitVec.eq_of_getLsbD_eq fun d hd => ?_
  simp only [BitVec.getLsbD_extractLsb', hd, show i + d < m by omega, decide_true, Bool.true_and, Nat.add_assoc]

/-- `BYTES8` of a word is `BYTES4` of its upper and of its lower half (00_scope R11). -/
theorem bytes8_eq_bytes4_append (v : Word) :
    bytes8 v = bytes4 (v.extractLsb' 32 32) ++ bytes4 (v.extractLsb' 0 32) := by
  simp only [bytes4, extractLsb'_extractLsb', Nat.reduceLeDiff, Nat.reduceAdd]
  rfl

/-- A word with one added to its low 32 bits, modulo 2^32, and its high 32 bits kept. -/
def incLow32 (v : Word) : Word := v.extractLsb' 32 32 ++ (v.extractLsb' 0 32 + 1)

theorem incLow32_high (v : Word) : (incLow32 v).extractLsb' 32 32 = v.extractLsb' 32 32 := BitVec.extractLsb'_append_eq_left

theorem incLow32_low (v : Word) : (incLow32 v).extractLsb' 0 32 = v.extractLsb' 0 32 + 1 := by
  rw [← BitVec.setWidth_eq_extractLsb' (by decide)]
  exact BitVec.setWidth_append_eq_right

/-- Inc32 of the block a register holds is the block of that register with its `high[31:0]` one up. -/
theorem inc32_toBytes (x : FieldElement) : inc32 (toBytes x) = toBytes { low := x.low, high := incLow32 x.high } := by
  have hsplit (v : Word) : toBytes { low := x.low, high := v } =
      (bytes8 x.low ++ bytes4 (v.extractLsb' 32 32)) ++ bytes4 (v.extractLsb' 0 32) := by
    rw [toBytes, bytes8_eq_bytes4_append v, List.append_assoc]
  have htake : (toBytes x).take 12 = bytes8 x.low ++ bytes4 (x.high.extractLsb' 32 32) := by
    rw [hsplit x.high]; rfl
  have hdrop : ((toBytes x).drop 12).take 4 = bytes4 (x.high.extractLsb' 0 32) := by
    rw [hsplit x.high]; rfl
  rw [inc32, htake, hdrop, be32_bytes4, hsplit, incLow32_high, incLow32_low]

theorem fromBytes_inc32_toBytes (x : FieldElement) :
    fromBytes (inc32 (toBytes x)) = { low := x.low, high := incLow32 x.high } := by
  rw [inc32_toBytes, fromBytes_toBytes]

theorem getLsbD_highMask : ∀ d < 64, (0xffffffff00000000 : Word).getLsbD d = decide (32 ≤ d) := by decide

theorem getLsbD_lowMask : ∀ d < 64, (0x00000000ffffffff : Word).getLsbD d = decide (d < 32) := by decide

/-- The word as CINC's rule writes it (43_ctr R175): a carry out of the low 32 bits meets the mask. -/
theorem incLow32_eq_masks (v : Word) :
    incLow32 v = (v &&& 0xffffffff00000000) ||| ((v + 1) &&& 0x00000000ffffffff) := by
  have hsum : v.extractLsb' 0 32 + 1 = (v + 1).setWidth 32 := by
    rw [BitVec.setWidth_add _ _ (by decide), BitVec.setWidth_eq_extractLsb' (by decide)]
    rfl
  refine BitVec.eq_of_getLsbD_eq fun d hd => ?_
  rw [incLow32, hsum, BitVec.getLsbD_append, BitVec.getLsbD_or, BitVec.getLsbD_and, BitVec.getLsbD_and, getLsbD_highMask d hd,
    getLsbD_lowMask d hd]
  by_cases hlow : d < 32
  · simp [hlow]
  · simp [hlow, Nat.le_of_not_lt hlow, hd, show d - 32 < 32 by omega]

/-! ### counterCrypt, byte by byte (43_ctr R172, R173) -/

/-- The mask byte at place `i` of a run from the counter `c`. -/
def maskByte (E : Bytes → Bytes) (c : Bytes) (i : Nat) : Byte := (E (inc32^[i / 16] c)).getD (i % 16) 0

/-- One chunk on, the masks are those of the next counter. -/
theorem maskByte_add_chunk (E : Bytes → Bytes) (c : Bytes) (i : Nat) : maskByte E c (i + 16) = maskByte E (inc32 c) i := by
  rw [maskByte, Nat.add_div_right _ (by decide), Nat.add_mod_right, Function.iterate_succ_apply, maskByte]

theorem xorBytes_mask {E : Bytes → Bytes} (hE : ∀ b, (E b).length = 16) {chunk : Bytes} (hchunk : chunk.length ≤ 16)
    (c : Bytes) : xorBytes chunk (E c) = chunk.mapIdx fun i b => b ^^^ maskByte E c i := by
  refine List.ext_getElem (by simp [hE, hchunk]) fun i hi _ => ?_
  have hlt : i < 16 := by simp [hE] at hi; omega
  have hmask : maskByte E c i = (E c)[i]'(by rw [hE]; exact hlt) := by
    rw [maskByte, Nat.div_eq_of_lt hlt, Nat.mod_eq_of_lt hlt, List.getD_eq_getElem _ _ (by rw [hE]; exact hlt)]
    rfl
  rw [List.getElem_mapIdx, hmask]
  exact List.getElem_zipWith

theorem keystreamXor_eq_mapIdx {E : Bytes → Bytes} (hE : ∀ b, (E b).length = 16) (k : Nat) {inp : Bytes}
    (hk : inp.length ≤ 16 * k) (c : Bytes) : keystreamXor E k inp c = inp.mapIdx fun i b => b ^^^ maskByte E c i := by
  induction k generalizing inp c with
  | zero =>
    obtain rfl : inp = [] := List.eq_nil_of_length_eq_zero (by omega)
    rfl
  | succ k ih =>
    have hrest : (inp.drop 16).length ≤ 16 * k := by rw [List.length_drop]; omega
    conv_rhs => rw [← List.take_append_drop 16 inp, List.mapIdx_append]
    rw [keystreamXor, xorBytes_mask hE (List.length_take_le 16 inp), ih hrest]
    obtain hshort | hlong := Nat.lt_or_ge inp.length 16
    · rw [List.drop_of_length_le hshort.le]; rfl
    · rw [List.length_take_of_le hlong]
      simp only [maskByte_add_chunk]

/-- Counter mode is one exclusive or per byte. -/
theorem counterCrypt_fst {E : Bytes → Bytes} (hE : ∀ b, (E b).length = 16) (inp c : Bytes) :
    (counterCrypt E inp c).1 = inp.mapIdx fun i b => b ^^^ maskByte E c i :=
  keystreamXor_eq_mapIdx hE _ (chunks_enough _) c

/-- The counter handed back depends on the length of the input only. -/
theorem counterCrypt_snd (E : Bytes → Bytes) (inp c : Bytes) :
    (counterCrypt E inp c).2 = inc32^[ceil16 inp.length] c := incBy_eq_iterate _ c

theorem counterCrypt_of_ne_nil (E : Bytes → Bytes) {inp : Bytes} (h : inp ≠ []) (c : Bytes) :
    counterCrypt E inp c =
      (xorBytes (inp.take 16) (E c) ++ (counterCrypt E (inp.drop 16) (inc32 c)).1,
        (counterCrypt E (inp.drop 16) (inc32 c)).2) := by
  have hpos := List.length_pos_of_ne_nil h
  have hchunks : chunks inp.length = chunks (inp.drop 16).length + 1 := by
    rw [List.length_drop, chunks, chunks]; omega
  rw [counterCrypt, hchunks]
  rfl

theorem counterCrypt_counterCrypt {E : Bytes → Bytes} (hE : ∀ b, (E b).length = 16) (p c : Bytes) :
    counterCrypt E (counterCrypt E p c).1 c = (p, (counterCrypt E p c).2) := by
  refine Prod.ext ?output ?counter
  case output =>
    rw [counterCrypt_fst hE, counterCrypt_fst hE]
    exact List.ext_getElem (by simp) fun i _ _ => by simp
  case counter => rw [counterCrypt_snd, counterCrypt_snd, counterCrypt_length E hE]

theorem counterCrypt_take {E : Bytes → Bytes} (hE : ∀ b, (E b).length = 16) (p c : Bytes) (n : Nat) :
    (counterCrypt E (p.take n) c).1 = (counterCrypt E p c).1.take n := by
  rw [counterCrypt_fst hE, counterCrypt_fst hE]
  exact List.ext_getElem (by simp) fun i _ _ => by simp

/-! ### The tests of the unit's commands (60_exceptions R246, R248, R249) -/

theorem firstFailed_cons_eq_ite (p : Bool × Cause) (rest : List (Bool × Cause)) :
    firstFailed (p :: rest) = if p.1 then some p.2 else firstFailed rest := firstFailed_cons p.1 p.2 rest

theorem firstFailed_regs_notReady {rs : List RegField} (h : ∀ r ∈ rs, RegField.ok r = true) (s : State) :
    firstFailed [testRegs rs, testNotReady s] = if s.ctx.valid then none else some .notReady := by
  rw [firstFailed_testRegs h, firstFailed_testNotReady, firstFailed_nil]

theorem fatalCause_ctrx {vd : RegField} (hvd : RegField.ok vd = true) (s : State) :
    fatalCause (.ctrx vd) s =
      if s.ctx.valid then
        if (testMsgTooLarge s).1 then some .msgTooLarge
        else if (testRange [s.srcRegion, ctrxOut s]).1 then some .range
        else if inexactOverlap (ctrxOut s) s.srcRegion then some .overlap
        else none
      else some .notReady := by
  rw [fatalCause, testsCtrx, firstFailed_testRegs (by simp [hvd]), firstFailed_testNotReady,
    firstFailed_cons_eq_ite, firstFailed_cons_eq_ite, firstFailed_cons_eq_ite, firstFailed_nil]
  rfl

theorem testRange_ctrxRegions_iff (s : State) :
    (testRange [s.srcRegion, ctrxOut s]).1 = true ↔
      2 ^ 64 < s.srcAddr.toNat + s.srcLen.toNat ∨ 2 ^ 64 < s.dstAddr.toNat + s.srcLen.toNat := by
  rw [testRange_iff]
  simp only [List.exists_mem_cons_iff, List.not_mem_nil, false_and, exists_false, or_false]
  rfl

theorem ctrxOverlap_iff (s : State) :
    inexactOverlap (ctrxOut s) s.srcRegion = true ↔
      InexactOverlap s.dstAddr.toNat s.srcLen.toNat s.srcAddr.toNat s.srcLen.toNat := by
  rw [inexactOverlap_iff, anyOverlap_iff]
  rfl

/-! ### CTRX past its tests (43_ctr R176) -/

theorem setOutLen_toNat (s : State) (w : Word) : s.setOutLen w.toNat = { s with outLen := w } := by
  rw [State.setOutLen, BitVec.ofNat_toNat, BitVec.setWidth_eq]

/-- Output and counter of CTRX. -/
def ctrxResult (vd : RegField) (s : State) : Bytes × Bytes :=
  counterCrypt s.cipher.encrypt (s.bytesAt s.srcAddr s.srcLen.toNat) (toBytes (s.getV vd))

/-- The state CTRX leaves. -/
def ctrxEnd (vd : RegField) (s : State) : State :=
  (((((s.store (ctrxResult vd s).1).setV vd (fromBytes (ctrxResult vd s).2)).setOutLen s.srcLen.toNat).request
    ((counterBlocks (chunks s.srcLen.toNat) (toBytes (s.getV vd))).map .encrypt)).finish .ok)

section
variable {vd : RegField} {s : State}

theorem exec_ctrx_of_passed (h : fatalCause (.ctrx vd) s = none) : exec (.ctrx vd) s = .next (ctrxEnd vd s) := by
  rw [exec_ctrx]
  exact guarded_of_none h s _

theorem ctrxResult_fst_length : (ctrxResult vd s).1.length = s.srcLen.toNat :=
  (counterCrypt_length _ (encrypt_length s.cipher) _ _).trans (Memory.readN_length _ _ _)

theorem ctrxResult_snd_length : (ctrxResult vd s).2.length = 16 := incBy_length _ _ (toBytes_length _)

theorem ctrxEnd_bytesAt : (ctrxEnd vd s).bytesAt s.dstAddr s.srcLen.toNat = (ctrxResult vd s).1 := by
  have hread := readN_store s (ctrxResult vd s).1
  rwa [ctrxResult_fst_length] at hread

theorem ctrxEnd_memoryFrame : MemoryFrame s (ctrxEnd vd s) s.dstAddr.toNat s.srcLen.toNat := fun a ha =>
  read_store_outside s (ctrxResult vd s).1 a (by rwa [ctrxResult_fst_length])

theorem ctrxEnd_counter : toBytes ((ctrxEnd vd s).getV vd) = (ctrxResult vd s).2 :=
  (congrArg toBytes (getV_setV_same _ vd _)).trans (toBytes_fromBytes _ ctrxResult_snd_length)

theorem ctrxEnd_getV_other (hvd : RegField.ok vd = true) {r : RegField} (hr : RegField.ok r = true) (hne : r ≠ vd) :
    (ctrxEnd vd s).getV r = s.getV r :=
  getV_setV_other (s.store (ctrxResult vd s).1) vd r _ hvd hr hne

theorem ctrxEnd_requests : (ctrxEnd vd s).requests =
    s.requests ++ (List.range (ceil16 s.srcLen.toNat)).map fun k => .encrypt (inc32^[k] (toBytes (s.getV vd))) := by
  have hend : (ctrxEnd vd s).requests =
      s.requests ++ (counterBlocks (chunks s.srcLen.toNat) (toBytes (s.getV vd))).map .encrypt := rfl
  rw [hend, counterBlocks_eq_map, List.map_map]
  rfl

theorem ctrxEnd_frame : ctrxEnd vd s =
    { s with
      vregs := (ctrxEnd vd s).vregs, mem := (ctrxEnd vd s).mem, outLen := s.srcLen, requests := (ctrxEnd vd s).requests,
      busy := false, result := 0x00 } := by
  rw [ctrxEnd, setOutLen_toNat]
  rfl

end

/-! ### The statements -/

/-- Settles O26: with a legal field the tests decide in their order; past them all, the state CTRX leaves has each property. -/
theorem ctrxEncryptsTheSource : Obligations.CtrxEncryptsTheSource := by
  intro vd s hvd L past clash
  have hcause := fatalCause_ctrx hvd s
  have hmsg : (testMsgTooLarge s).1 = true ↔ CAP < L := testMsgTooLarge_iff s
  have hpast : (testRange [s.srcRegion, ctrxOut s]).1 = true ↔ past := testRange_ctrxRegions_iff s
  have hclash : inexactOverlap (ctrxOut s) s.srcRegion = true ↔ clash := ctrxOverlap_iff s
  simp only [hmsg] at hcause
  refine ⟨wordOf_eq_cmdWord 0x30 vd 0 0, fun hinvalid => ?notReady, fun hvalid hlong => ?tooLarge,
    fun hvalid hfits hp => ?range, fun hvalid hfits hp hc => ?overlap, fun hvalid hfits hp hc => ?passed⟩
  case notReady =>
    rw [if_neg (by simp [hinvalid])] at hcause
    exact exec_of_fatalCause hcause
  case tooLarge =>
    rw [if_pos hvalid, if_pos hlong] at hcause
    exact exec_of_fatalCause hcause
  case range =>
    rw [if_pos hvalid, if_neg hfits.not_gt, if_pos (hpast.2 hp)] at hcause
    exact exec_of_fatalCause hcause
  case overlap =>
    rw [if_pos hvalid, if_neg hfits.not_gt, if_neg (hp ∘ hpast.1), if_pos (hclash.2 hc)] at hcause
    exact exec_of_fatalCause hcause
  case passed =>
    rw [if_pos hvalid, if_neg hfits.not_gt, if_neg (hp ∘ hpast.1), if_neg (hc ∘ hclash.1)] at hcause
    exact ⟨ctrxEnd vd s, exec_ctrx_of_passed hcause, ctrxEnd_bytesAt, ctrxEnd_memoryFrame, ctrxEnd_counter,
      fun r hr hne => ctrxEnd_getV_other hvd hr hne, ctrxEnd_requests, ctrxEnd_frame⟩

/-- Settles O27: the chunk recursion, and the count of the counter handed back after one increment per chunk. -/
theorem counterModeGoesChunkByChunk : Obligations.CounterModeGoesChunkByChunk := by
  intro E hE inp c
  refine ⟨counterCrypt_length E hE inp c, rfl, fun h => counterCrypt_of_ne_nil E h c, counterCrypt_snd E inp c, fun hc => ?_⟩
  rw [counterCrypt_snd]
  exact toNat_count_iterate _ hc

/-- Settles O28: each law but the last is read off the exclusive or byte by byte, the last off the count. -/
theorem counterModeIsItsOwnInverse : Obligations.CounterModeIsItsOwnInverse := by
  intro E hE p c
  refine ⟨counterCrypt_counterCrypt hE p c, fun i hi => ?_, counterCrypt_take hE p c,
    fun hc j k hj hk h => iterate_inc32_inj hc hj hk h⟩
  rw [counterCrypt_fst hE, List.getD_eq_getElem _ _ (by simpa using hi), List.getElem_mapIdx, List.getD_eq_getElem _ _ hi]
  rfl

/-- Settles O23: Inc32 on the block, and on the register that holds it. -/
theorem incrementTouchesTheCountOnly : Obligations.IncrementTouchesTheCountOnly := by
  refine ⟨fun c hc => ⟨inc32_length c hc, inc32_take hc, toNat_count_iterate 1 hc⟩, fun x => ?_⟩
  rw [fromBytes_inc32_toBytes]
  exact ⟨rfl, incLow32_high x.high, incLow32_low x.high⟩

/-- Settles O24: with legal fields the context decides; with one, CINC writes one register, whose high word is the rule's. -/
theorem cincIncrementsTheCount : Obligations.CincIncrementsTheCount := by
  intro vd va s hvd hva
  have hcause : fatalCause (.cinc vd va) s = if s.ctx.valid then none else some .notReady :=
    firstFailed_regs_notReady (by simp [hvd, hva]) s
  refine ⟨wordOf_eq_cmdWord 0x32 vd va 0, fun hinvalid => ?_, fun hvalid => ?_⟩
  · rw [hinvalid] at hcause
    exact exec_of_fatalCause hcause
  · rw [hvalid] at hcause
    obtain ⟨t, ht, hresult, hframe⟩ := guarded_setV hcause hvd s fun s => fromBytes (inc32 (toBytes (s.getV va)))
    rw [fromBytes_inc32_toBytes] at hresult
    exact ⟨t, ht, by rw [hresult], by rw [hresult, incLow32_eq_masks], hframe⟩

/-- Settles O25: with legal fields the context decides; with one, CENC makes one request and writes its answer. -/
theorem cencEncryptsOneBlock : Obligations.CencEncryptsOneBlock := by
  intro vd va s hvd hva
  have hcause : fatalCause (.cenc vd va) s = if s.ctx.valid then none else some .notReady :=
    firstFailed_regs_notReady (by simp [hvd, hva]) s
  refine ⟨wordOf_eq_cmdWord 0x31 vd va 0, fun hinvalid => ?_, fun hvalid => ?_⟩
  · rw [hinvalid] at hcause
    exact exec_of_fatalCause hcause
  · rw [hvalid] at hcause
    have hresult := toBytes_fromBytes _ (encrypt_length s.cipher (toBytes (s.getV va)))
    rw [exec_cenc]
    exact ⟨_, guarded_of_none hcause s _, (congrArg toBytes (getV_setV_same s vd _)).trans hresult,
      vectorFrame_setV s hvd (fromBytes _) [_]⟩

end Sys2Proof.Machine
end

section
/-! PROOFS, the GCM engine (44_gcm). Part 1: its functions. The length block is one more block absorbed; Seal and Open are said of a
message that is a body followed by a tag, from which the statements on the functions are read off. -/

namespace Sys2Proof.Machine

open Sys2Proof.Reference

/-! ### The length block (44_gcm R198, R204) -/

/-- A bit length does not wrap (00_scope R9). -/
theorem toNat_bitLen {n : Nat} (h : n < 2 ^ 61) : (bitLen n).toNat = n * 8 := by
  rw [bitLen, BitVec.toNat_ofNat, Nat.mod_eq_of_lt (by omega)]

theorem bytes8_bitLen_zero : bytes8 (bitLen 0) = zeros 8 := by decide

theorem updateBlocks_block (t : Table) (y : FieldElement) {b : Bytes} (hb : b.length = 16) :
    updateBlocks y b t = absorb t y b := by
  simpa using updateBlocks_block_append t y hb []

theorem absorbLengths_eq_updateBlocks (t : Table) (y : FieldElement) (a c : Nat) :
    absorbLengths t y a c = updateBlocks y (bytes8 (bitLen a) ++ bytes8 (bitLen c)) t := by
  have hblock : fromBytes (bytes8 (bitLen a) ++ bytes8 (bitLen c)) = { low := bitLen a, high := bitLen c } :=
    fromBytes_toBytes { low := bitLen a, high := bitLen c }
  rw [updateBlocks_block t y (by simp), absorb, hblock]
  rfl

theorem deriveCounter_of_twelve {nonce : Bytes} (h : nonce.length = 12) (t : Table) :
    deriveCounter nonce t = nonce ++ [0x00, 0x00, 0x00, 0x01] := if_pos h

theorem deriveCounter_of_hashed {nonce : Bytes} (h : nonce.length ≠ 12) (t : Table) :
    deriveCounter nonce t =
      toBytes (updateBlocks (update FieldElement.zero nonce t) (zeros 8 ++ bytes8 (bitLen nonce.length)) t) := by
  rw [deriveCounter, if_neg h, absorbLengths_eq_updateBlocks, bytes8_bitLen_zero]

theorem authTag_eq_updateBlocks (ct aad mask : Bytes) (t : Table) :
    authTag ct aad mask t =
      xorBytes (toBytes (updateBlocks (update (update FieldElement.zero aad t) ct t)
        (bytes8 (bitLen aad.length) ++ bytes8 (bitLen ct.length)) t)) mask := by
  rw [authTag, absorbLengths_eq_updateBlocks]

theorem toBytes_zero : toBytes FieldElement.zero = zeros 16 := by decide

theorem zeros_xorBytes {n : Nat} {mask : Bytes} (h : mask.length = n) : xorBytes (zeros n) mask = mask := by
  refine List.ext_getElem (by simp [h]) fun i _ _ => ?_
  simp [xorBytes, zeros]

/-- With nothing to absorb but a length block of zeros the hash is zero, and only the mask is left. -/
theorem authTag_nil_nil (h : FieldElement) {mask : Bytes} (hmask : mask.length = 16) :
    authTag [] [] mask (buildTable h) = mask := by
  have hhash : absorbLengths (buildTable h) FieldElement.zero 0 0 = FieldElement.zero := by
    obtain ⟨-, -, hzero, -⟩ := mulIsTheFieldProduct h
    exact hzero
  have htag : authTag [] [] mask (buildTable h) =
      xorBytes (toBytes (absorbLengths (buildTable h) FieldElement.zero 0 0)) mask := rfl
  rw [htag, hhash, toBytes_zero, zeros_xorBytes hmask]

/-! ### Seal and Open (44_gcm R207, R211) -/

/-- Seal's ciphertext (44_gcm R207). -/
def sealCiphertext (E : Bytes → Bytes) (t : Table) (nonce pt : Bytes) : Bytes :=
  (counterCrypt E pt (inc32 (deriveCounter nonce t))).1

/-- Seal puts behind its ciphertext the tag that Open expects there. -/
theorem gcmSeal_eq_append (E : Bytes → Bytes) (t : Table) (ts : Nat) (nonce pt aad : Bytes) :
    gcmSeal E t ts nonce pt aad =
      sealCiphertext E t nonce pt ++ expectedTag E t ts nonce (sealCiphertext E t nonce pt) aad := rfl

section
variable {E : Bytes → Bytes} (hE : ∀ b, (E b).length = 16)
include hE

theorem sealCiphertext_length (t : Table) (nonce pt : Bytes) : (sealCiphertext E t nonce pt).length = pt.length :=
  counterCrypt_length E hE pt _

theorem take_gcmSeal (t : Table) (ts : Nat) (nonce pt aad : Bytes) :
    (gcmSeal E t ts nonce pt aad).take pt.length = sealCiphertext E t nonce pt :=
  List.take_left' (sealCiphertext_length hE t nonce pt)

theorem drop_gcmSeal (t : Table) (ts : Nat) (nonce pt aad : Bytes) :
    (gcmSeal E t ts nonce pt aad).drop pt.length = expectedTag E t ts nonce (sealCiphertext E t nonce pt) aad :=
  List.drop_left' (sealCiphertext_length hE t nonce pt)

theorem expectedTag_length (t : Table) {ts : Nat} (hts : ts ≤ 16) (nonce body aad : Bytes) :
    (expectedTag E t ts nonce body aad).length = ts := by
  rw [expectedTag, List.length_take, authTag_length _ _ _ _ (hE _), Nat.min_eq_left hts]

end

/-- Open of a body within the cap and a tag behind it: the expected tag decides. -/
theorem gcmOpen_append (E : Bytes → Bytes) (t : Table) {ts : Nat} (nonce : Bytes) {body tag : Bytes} (aad : Bytes)
    (htag : tag.length = ts) (hcap : body.length ≤ cap) :
    gcmOpen E t ts nonce (body ++ tag) aad =
      if tag = expectedTag E t ts nonce body aad then some (counterCrypt E body (inc32 (deriveCounter nonce t))).1 else none := by
  have hlen : (body ++ tag).length = body.length + ts := by rw [List.length_append, htag]
  have hgood : ¬((body ++ tag).length < ts ∨ (body ++ tag).length > cap + ts) := by omega
  have hsplit : (body ++ tag).length - ts = body.length := by omega
  rw [gcmOpen, if_neg hgood, hsplit, List.take_left, List.drop_left]
  simp only [constantTimeEq, beq_iff_eq, @eq_comm _ tag]

/-- Whatever its length: where Open accepts a body and a tag, the tag is the expected one. -/
theorem eq_of_gcmOpen_append {E : Bytes → Bytes} {t : Table} {ts : Nat} {nonce body tag aad p : Bytes} (htag : tag.length = ts)
    (h : gcmOpen E t ts nonce (body ++ tag) aad = some p) :
    tag = expectedTag E t ts nonce body aad ∧ p = (counterCrypt E body (inc32 (deriveCounter nonce t))).1 := by
  have hsplit : (body ++ tag).length - ts = body.length := by rw [List.length_append, htag, Nat.add_sub_cancel]
  obtain ⟨-, -, hexpected, hp⟩ := gcmOpen_some _ _ _ _ _ _ _ h
  rw [hsplit, List.take_left, List.drop_left] at hexpected
  rw [hsplit, List.take_left] at hp
  exact ⟨hexpected.symm, hp⟩

/-! ### The statements on the functions -/

/-- Settles O32: the length block is the block of the two bit lengths; two empty strings leave the hash zero. -/
theorem tagIsTheHashOfDataAndLengths : Obligations.TagIsTheHashOfDataAndLengths := by
  refine ⟨fun t ct aad mask haad hct => ?_, fun h mask => authTag_nil_nil h⟩
  have hbound : ct.length < 2 ^ 61 := lt_of_le_of_lt hct (by decide)
  exact ⟨bitLen aad.length, bitLen ct.length, toNat_bitLen haad, toNat_bitLen hbound, authTag_eq_updateBlocks ct aad mask t⟩

/-- Settles O37: Open meets the tag it expects, and counter mode undoes itself. -/
theorem openUndoesSeal : Obligations.OpenUndoesSeal := by
  intro E hE t ts nonce pt aad hts hcap
  have hbody : (sealCiphertext E t nonce pt).length ≤ cap := by rwa [sealCiphertext_length hE]
  rw [gcmSeal_eq_append, gcmOpen_append E t nonce aad (expectedTag_length hE t hts nonce _ aad) hbody, if_pos rfl]
  exact congrArg (some ∘ Prod.fst) (counterCrypt_counterCrypt hE pt _)

/-- Settles O38: acceptance forces the expected tag, which Seal's is. -/
theorem openRejectsAChangedTag : Obligations.OpenRejectsAChangedTag := by
  intro E hE t ts nonce pt aad tag' _ htag
  refine ⟨fun hne => ?_, fun body p h => eq_of_gcmOpen_append htag h⟩
  rw [drop_gcmSeal hE] at hne
  rw [take_gcmSeal hE, Option.eq_none_iff_forall_ne_some]
  exact fun p h => hne (eq_of_gcmOpen_append htag h).1

/-- Settles O31: the two paths of deriveCounter. -/
theorem firstCounterIsTheNonceOrItsHash : Obligations.FirstCounterIsTheNonceOrItsHash :=
  fun t _ hlen => ⟨fun h => deriveCounter_of_twelve h t, fun h => ⟨_, toNat_bitLen hlen, deriveCounter_of_hashed h t⟩⟩

/-- Settles O34: the ciphertext is as long as the plaintext, so the parts are the two sides of the append. -/
theorem sealIsCiphertextThenTag : Obligations.SealIsCiphertextThenTag := by
  intro E hE t ts nonce pt aad hts
  refine ⟨take_gcmSeal hE t ts nonce pt aad, drop_gcmSeal hE t ts nonce pt aad, ?_⟩
  rw [gcmSeal_length E hE, Nat.min_eq_left hts]

end Sys2Proof.Machine
end

section
/-! PROOFS, the GCM engine (44_gcm). Part 2: the tests of its commands against R248's list of propositions and codes, and the states
SEAL and OPEN leave past them. -/

namespace Sys2Proof.Machine

open Sys2Proof.Reference

/-! ### The tests decide R248's propositions -/

/-- At each place the test decides the proposition, and its cause has the code. -/
def Decides (l : List (Bool × Cause)) (ps : List (Prop × Byte)) : Prop :=
  List.Forall₂ (fun b p => (b.1 = true ↔ p.1) ∧ b.2.code = p.2) l ps

theorem noneHolds_cons {p : Prop} {c : Byte} {ps : List (Prop × Byte)} : NoneHolds ((p, c) :: ps) ↔ ¬p ∧ NoneHolds ps :=
  List.forall_mem_cons

theorem noneHolds_nil : NoneHolds [] := List.forall_mem_nil _

theorem firstIs_here {p : Prop} {c : Byte} {ps : List (Prop × Byte)} (h : p) : FirstIs c ((p, c) :: ps) := .inl ⟨h, rfl⟩

theorem firstIs_later {p : Prop} {c code : Byte} {ps : List (Prop × Byte)} (hp : ¬p) (h : FirstIs code ps) :
    FirstIs code ((p, c) :: ps) := .inr ⟨hp, h⟩

theorem Decides.firstFailed_eq_none_iff {l : List (Bool × Cause)} {ps : List (Prop × Byte)} (h : Decides l ps) :
    firstFailed l = none ↔ NoneHolds ps := by
  induction h with
  | nil => simp [noneHolds_nil]
  | @cons b p l ps hbp _ ih =>
    obtain ⟨hiff, -⟩ := hbp
    rw [firstFailed_cons_eq_ite, noneHolds_cons, ← hiff, ← ih]
    cases b.1 <;> simp

theorem Decides.firstFailed_of_firstIs {l : List (Bool × Cause)} {ps : List (Prop × Byte)} {code : Byte} (h : Decides l ps)
    (hfirst : FirstIs code ps) : ∃ c, firstFailed l = some c ∧ c.code = code := by
  induction h with
  | nil => exact hfirst.elim
  | @cons b p l ps hbp _ ih =>
    obtain ⟨hiff, hcode⟩ := hbp
    rw [firstFailed_cons_eq_ite]
    obtain ⟨hp, rfl⟩ | ⟨hp, hrest⟩ := hfirst
    · exact ⟨b.2, if_pos (hiff.2 hp), hcode⟩
    · rw [if_neg (hp ∘ hiff.1)]
      exact ih hrest

/-- A command whose tests decide R248's list ends in the fatal error of the first proposition that holds. -/
theorem Decides.exec_of_firstIs {i : Instr} {s : State} {l : List (Bool × Cause)} {code : Byte} (h : Decides l (tests i s))
    (hcause : fatalCause i s = firstFailed l) (hfirst : FirstIs code (tests i s)) : exec i s = .next (fatal s code) := by
  obtain ⟨c, hc, rfl⟩ := h.firstFailed_of_firstIs hfirst
  exact exec_of_fatalCause (hcause.trans hc)

theorem testRegs_iff_above7 {r : RegField} : (testRegs [r]).1 = true ↔ Above7 r := by
  simp [testRegs, Above7, ← Bool.not_eq_true, ok_iff_le_seven]

theorem testRegs_iff_either_above7 {r q : RegField} : (testRegs [r, q]).1 = true ↔ Above7 r ∨ Above7 q := by
  simp [testRegs, Above7, ← Bool.not_eq_true, ok_iff_le_seven]

theorem not_above7 {r : RegField} (h : RegField.ok r = true) : ¬Above7 r := Nat.not_lt.2 ((ok_iff_le_seven r).1 h)

theorem wrongNonce_iff (s : State) : WrongNonce s ↔ s.nonceLen ≠ s.ctx.nonceSize := BitVec.toNat_inj.not

theorem not_wrongNonce {s : State} (h : s.nonceLen = s.ctx.nonceSize) : ¬WrongNonce s := fun hw => (wrongNonce_iff s).1 hw h

theorem valid_ne_false {s : State} (h : s.ctx.valid = true) : ¬s.ctx.valid = false := by simp [h]

theorem testRange_singleton_iff (r : Region) : (testRange [r]).1 = true ↔ 2 ^ 64 < r.addr + r.len := by simp [testRange_iff]

theorem testRange_cons_iff (r : Region) (rs : List Region) :
    (testRange (r :: rs)).1 = true ↔ 2 ^ 64 < r.addr + r.len ∨ (testRange rs).1 = true := by
  rw [testRange_iff, testRange_iff, List.exists_mem_cons_iff]

theorem testRange_authRegions_iff (s : State) :
    (testRange [s.srcRegion, s.aadRegion]).1 = true ↔ PastTop s.srcAddr s.srcLen.toNat ∨ PastTop s.aadAddr s.aadLen.toNat := by
  rw [testRange_cons_iff, testRange_singleton_iff]
  rfl

theorem testRange_openRegions_iff (s : State) :
    (testRange [s.nonceRegion, s.srcRegion, s.aadRegion, openOut s]).1 = true ↔
      PastTop s.nonceAddr s.nonceLen.toNat ∨ PastTop s.srcAddr s.srcLen.toNat ∨ PastTop s.aadAddr s.aadLen.toNat ∨
        PastTop s.dstAddr (s.srcLen.toNat - s.ctx.tagSize.toNat) := by
  rw [testRange_cons_iff, testRange_cons_iff, testRange_cons_iff, testRange_singleton_iff]
  rfl

theorem openOverlap_iff (s : State) :
    (inexactOverlap (openOut s) s.srcRegion || anyOverlap (openOut s) s.aadRegion) = true ↔ OpenOverlap s := by
  rw [Bool.or_eq_true, inexactOverlap_iff, anyOverlap_iff, anyOverlap_iff]
  rfl

theorem openLengthBad_iff_reference (s : State) : openLengthBad s = true ↔ OpenLengthBad s := openLengthBad_iff s

theorem testsDerive_decide (vd : RegField) (s : State) : Decides (testsDerive vd s) (tests (.derive vd) s) :=
  .cons ⟨testRegs_iff_above7, rfl⟩ <| .cons ⟨testNotReady_iff s, rfl⟩ <| .cons ⟨testNonceLen_iff_wrongNonce s, rfl⟩ <|
    .cons ⟨testRange_singleton_iff s.nonceRegion, rfl⟩ .nil

theorem testsAuth_decide (vd va : RegField) (s : State) : Decides (testsAuth vd va s) (tests (.auth vd va) s) :=
  .cons ⟨testRegs_iff_either_above7, rfl⟩ <| .cons ⟨testNotReady_iff s, rfl⟩ <| .cons ⟨testMsgTooLarge_iff s, rfl⟩ <|
    .cons ⟨testAadTooLarge_iff s, rfl⟩ <| .cons ⟨testRange_authRegions_iff s, rfl⟩ .nil

theorem testsSeal_decide (s : State) : Decides (testsSeal s) (tests .sealMsg s) :=
  .cons ⟨testNotReady_iff s, rfl⟩ <| .cons ⟨testNonceLen_iff_wrongNonce s, rfl⟩ <| .cons ⟨testMsgTooLarge_iff s, rfl⟩ <|
    .cons ⟨testAadTooLarge_iff s, rfl⟩ <| .cons ⟨testRange_sealRegions_iff s, rfl⟩ <| .cons ⟨sealOverlap_iff s, rfl⟩ .nil

/-- What it says of a state that none of SEAL's tests holds. -/
theorem noneHolds_sealMsg_iff (s : State) : NoneHolds (tests .sealMsg s) ↔
    s.ctx.valid = true ∧ s.nonceLen = s.ctx.nonceSize ∧ s.srcLen.toNat ≤ CAP ∧ s.aadLen.toNat < 2 ^ 61 ∧
      ¬(PastTop s.nonceAddr s.nonceLen.toNat ∨ PastTop s.srcAddr s.srcLen.toNat ∨ PastTop s.aadAddr s.aadLen.toNat ∨
        PastTop s.dstAddr (s.srcLen.toNat + s.ctx.tagSize.toNat)) ∧ ¬SealOverlap s := by
  simp only [tests, noneHolds_cons, noneHolds_nil, and_true, wrongNonce_iff, Bool.not_eq_false, ne_eq, not_not, not_lt, not_le]

/-! ### OPEN's tests as one list: those after the length tests count for a legal length only -/

/-- The tests of OPEN in one list. -/
def testsOpen (s : State) : List (Bool × Cause) :=
  testsOpenBefore s ++ (testsOpenAfter s).map fun p => (!openLengthBad s && p.1, p.2)

theorem firstFailed_append (l l' : List (Bool × Cause)) : firstFailed (l ++ l') = (firstFailed l).or (firstFailed l') := by
  induction l with
  | nil => rfl
  | cons p l ih =>
    rw [List.cons_append, firstFailed_cons_eq_ite, firstFailed_cons_eq_ite, ih]
    split <;> rfl

theorem fatalCause_openMsg_eq_firstFailed (s : State) : fatalCause .openMsg s = firstFailed (testsOpen s) := by
  rw [fatalCause_openMsg, testsOpen, firstFailed_append]
  cases openLengthBad s <;> simp [testsOpenAfter]

theorem testsOpen_decide (s : State) : Decides (testsOpen s) (tests .openMsg s) := by
  have hgood {b : Bool} {p : Prop} (h : b = true ↔ p) : (!openLengthBad s && b) = true ↔ ¬OpenLengthBad s ∧ p := by
    rw [Bool.and_eq_true, Bool.not_eq_true', ← Bool.not_eq_true, openLengthBad_iff_reference, h]
  exact .cons ⟨testNotReady_iff s, rfl⟩ <| .cons ⟨testNonceLen_iff_wrongNonce s, rfl⟩ <|
    .cons ⟨hgood (testAadTooLarge_iff s), rfl⟩ <| .cons ⟨hgood (testRange_openRegions_iff s), rfl⟩ <|
    .cons ⟨hgood (openOverlap_iff s), rfl⟩ .nil

/-! ### The end of SEAL and OPEN past their tests (44_gcm R208, R212) -/

/-- The state left by a command that stores `out` at DST_ADDR and `n` in OUT_LEN. -/
def messageEnd (s : State) (out : Bytes) (n : Nat) (reqs : List CipherRequest) (r : ResultCode) : State :=
  (((s.store out).setOutLen n).request reqs).finish r

section
variable (s : State) {out : Bytes} {n : Nat} (reqs : List CipherRequest) (r : ResultCode)

theorem messageEnd_bytesAt {k : Nat} (hout : out.length = k) : (messageEnd s out n reqs r).bytesAt s.dstAddr k = out :=
  hout ▸ readN_store s out

theorem messageEnd_memoryFrame {k : Nat} (hout : out.length = k) :
    MemoryFrame s (messageEnd s out n reqs r) s.dstAddr.toNat k := fun a ha => read_store_outside s out a (hout ▸ ha)

theorem toNat_messageEnd_outLen (h : n < 2 ^ 64) : (messageEnd s out n reqs r).outLen.toNat = n :=
  (BitVec.toNat_ofNat n 64).trans (Nat.mod_eq_of_lt h)

theorem messageEnd_frame (out : Bytes) (n : Nat) : messageEnd s out n reqs r =
    { s with
      mem := (messageEnd s out n reqs r).mem, outLen := (messageEnd s out n reqs r).outLen, requests := s.requests ++ reqs,
      busy := false, result := r.code } := rfl

end

/-- The mask's request and then the keystream's, by rising counter (44_gcm R208, R212). -/
theorem gcmRequests_eq (s : State) (n : Nat) :
    gcmRequests s n = .encrypt (counter0Of s) ::
      (List.range (ceil16 n)).map fun k => .encrypt (inc32^[k + 1] (counter0Of s)) := by
  rw [gcmRequests, List.map_cons, counterBlocks_eq_map, List.map_map]
  rfl

theorem exec_sealMsg_of_passed {s : State} (h : NoneHolds (tests .sealMsg s)) :
    exec .sealMsg s = .next (messageEnd s (sealBytes s) (s.srcLen.toNat + s.ts) (gcmRequests s s.srcLen.toNat) .ok) := by
  rw [exec_sealMsg]
  exact guarded_of_none ((fatalCause_sealMsg_eq_none_iff s).2 h) s _

section
variable {s : State}

theorem exec_openMsg_of_lengthBad (hvalid : s.ctx.valid = true) (hnonce : s.nonceLen = s.ctx.nonceSize)
    (hbad : OpenLengthBad s) : exec .openMsg s = .next ((s.setOutLen 0).finish .authFail) := by
  have hbefore : firstFailed (testsOpenBefore s) = none := by simp [testsOpenBefore, testNotReady, testNonceLen, hvalid, hnonce]
  rw [exec_openMsg, execOpen, guarded_of_none hbefore, if_pos ((openLengthBad_iff_reference s).2 hbad)]

/-- Past every test Open's answer decides: the plaintext is stored, or zeros are. -/
theorem exec_openMsg_of_passed (h : NoneHolds (tests .openMsg s)) (hgood : ¬OpenLengthBad s) :
    exec .openMsg s = .next ((openResult s).elim
      (messageEnd s (zeros s.bodyLen) 0 [.encrypt (counter0Of s)] .authFail)
      (fun pt => messageEnd s pt s.bodyLen (gcmRequests s s.bodyLen) .ok)) := by
  have hnone : firstFailed (testsOpen s) = none := (testsOpen_decide s).firstFailed_eq_none_iff.2 h
  have hgood' : ¬openLengthBad s = true := hgood ∘ (openLengthBad_iff_reference s).1
  rw [← fatalCause_openMsg_eq_firstFailed, fatalCause_openMsg, if_neg hgood', Option.or_eq_none_iff] at hnone
  obtain ⟨hbefore, hafter⟩ := hnone
  rw [exec_openMsg, execOpen, guarded_of_none hbefore, if_neg hgood', guarded_of_none hafter]
  cases openResult s <;> rfl

end

/-! ### What Open answers on OPEN's regions (44_gcm R211) -/

theorem Memory.readN_add (m : Memory) (a n k : Nat) :
    Memory.readN m a (n + k) = Memory.readN m a n ++ Memory.readN m (a + n) k := by
  induction n generalizing a with
  | zero => rw [Nat.zero_add]; rfl
  | succ n ih => rw [Nat.succ_add, Memory.readN, ih, Memory.readN, Nat.succ_add_eq_add_succ]; rfl

/-- The message OPEN reads is a body and a tag behind it. -/
theorem bytesOf_srcRegion_eq_append {s : State} (h : s.ts ≤ s.srcLen.toNat) :
    s.bytesOf s.srcRegion =
      s.bytesAt s.srcAddr s.bodyLen ++ Memory.readN s.mem (s.srcAddr.toNat + s.bodyLen) s.ts := by
  have hsplit : s.srcLen.toNat = s.bodyLen + s.ts := (Nat.sub_add_cancel h).symm
  rw [State.bytesOf, State.bytesAt, ← Memory.readN_add, ← hsplit]
  rfl

/-- The tag decides. -/
theorem openResult_eq_ite {s : State} (hgood : ¬OpenLengthBad s) :
    openResult s =
      if Memory.readN s.mem (s.srcAddr.toNat + s.bodyLen) s.ts =
          expectedTag s.cipher.encrypt s.ctx.table s.ts (s.bytesOf s.nonceRegion) (s.bytesAt s.srcAddr s.bodyLen)
            (s.bytesOf s.aadRegion) then
        some (counterCrypt s.cipher.encrypt (s.bytesAt s.srcAddr s.bodyLen) (inc32 (counter0Of s))).1
      else none := by
  obtain ⟨hlong, hshort⟩ := not_or.1 hgood
  have hcap : s.bodyLen ≤ cap := Nat.sub_le_iff_le_add.2 (Nat.le_of_not_lt hshort)
  rw [openResult, bytesOf_srcRegion_eq_append (Nat.le_of_not_lt hlong)]
  exact gcmOpen_append _ _ _ _ (Memory.readN_length _ _ _) (by rwa [State.bytesAt, Memory.readN_length])

end Sys2Proof.Machine
end

section
/-! PROOFS, the GCM engine (44_gcm). Part 3: the statements on its commands. An error clause names the first test of R248's list that
holds; past the tests each clause is one of the lemmas on the state the command leaves. -/

namespace Sys2Proof.Machine

open Sys2Proof.Reference

/-! ### SEAL and OPEN (44_gcm R208, R212) -/

/-- Settles O35: the tests decide in R248's order; past them all, the state SEAL leaves has each property. -/
theorem sealWritesCiphertextAndTag : Obligations.SealWritesCiphertextAndTag := by
  intro s hts L ts nonce past
  have herror {code : Byte} (h : FirstIs code (tests .sealMsg s)) : exec .sealMsg s = .next (fatal s code) :=
    (testsSeal_decide s).exec_of_firstIs rfl h
  refine ⟨rfl, fun hv => herror (firstIs_here hv), fun hv hn => herror ?nonceLen, fun hv hn hl => herror ?tooLarge,
    fun hv hn hl ha => herror ?aadTooLarge, fun hv hn hl ha hp => herror ?range, fun hv hn hl ha hp hc => herror ?overlap,
    fun hv hn hl ha hp hc => ?passed⟩
  case nonceLen => exact firstIs_later (valid_ne_false hv) (firstIs_here ((wrongNonce_iff s).2 hn))
  case tooLarge => exact firstIs_later (valid_ne_false hv) (firstIs_later (not_wrongNonce hn) (firstIs_here hl))
  case aadTooLarge =>
    exact firstIs_later (valid_ne_false hv) (firstIs_later (not_wrongNonce hn) (firstIs_later hl.not_gt (firstIs_here ha)))
  case range =>
    exact firstIs_later (valid_ne_false hv) (firstIs_later (not_wrongNonce hn) (firstIs_later hl.not_gt (firstIs_later ha.not_ge
      (firstIs_here hp))))
  case overlap =>
    exact firstIs_later (valid_ne_false hv) (firstIs_later (not_wrongNonce hn) (firstIs_later hl.not_gt (firstIs_later ha.not_ge
      (firstIs_later hp (firstIs_here hc)))))
  case passed =>
    have hlen : (sealBytes s).length = L + ts := sealBytes_length hts
    have hsmall : L + ts < 2 ^ 64 := lt_of_le_of_lt (Nat.add_le_add hl hts) (by decide)
    exact ⟨_, exec_sealMsg_of_passed ((noneHolds_sealMsg_iff s).2 ⟨hv, hn, hl, ha, hp, hc⟩), messageEnd_bytesAt s _ _ hlen,
      messageEnd_memoryFrame s _ _ hlen, toNat_messageEnd_outLen s _ _ hsmall, congrArg (s.requests ++ ·) (gcmRequests_eq s L),
      messageEnd_frame s _ _ _ _⟩

/-- Settles O36: the tests decide in R248's order; past them the tag decides which of its two states OPEN leaves. -/
theorem openVerifiesThenDecrypts : Obligations.OpenVerifiesThenDecrypts := by
  intro s L ts body tag aad counter0 expected ready past
  have herror {code : Byte} (h : FirstIs code (tests .openMsg s)) : exec .openMsg s = .next (fatal s code) :=
    (testsOpen_decide s).exec_of_firstIs (fatalCause_openMsg_eq_firstFailed s) h
  refine ⟨rfl, fun hv => herror (firstIs_here hv), fun hv hn => herror ?nonceLen,
    fun ⟨hv, hn⟩ hbad => exec_openMsg_of_lengthBad hv hn hbad, fun ⟨hv, hn⟩ hgood ha => herror ?aadTooLarge,
    fun ⟨hv, hn⟩ hgood ha hp => herror ?range, fun ⟨hv, hn⟩ hgood ha hp hc => herror ?overlap,
    fun ⟨hv, hn⟩ hgood ha hp hc => ?passed⟩
  case nonceLen => exact firstIs_later (valid_ne_false hv) (firstIs_here ((wrongNonce_iff s).2 hn))
  case aadTooLarge => exact firstIs_later (valid_ne_false hv) (firstIs_later (not_wrongNonce hn) (firstIs_here ⟨hgood, ha⟩))
  case range =>
    exact firstIs_later (valid_ne_false hv) (firstIs_later (not_wrongNonce hn) (firstIs_later (fun h => ha.not_ge h.2)
      (firstIs_here ⟨hgood, hp⟩)))
  case overlap =>
    exact firstIs_later (valid_ne_false hv) (firstIs_later (not_wrongNonce hn) (firstIs_later (fun h => ha.not_ge h.2)
      (firstIs_later (fun h => hp h.2) (firstIs_here ⟨hgood, hc⟩))))
  case passed =>
    have hpass : NoneHolds (tests .openMsg s) :=
      noneHolds_cons.2 ⟨valid_ne_false hv, noneHolds_cons.2 ⟨not_wrongNonce hn, noneHolds_cons.2 ⟨fun h => ha.not_ge h.2,
        noneHolds_cons.2 ⟨fun h => hp h.2, noneHolds_cons.2 ⟨fun h => hc h.2, noneHolds_nil⟩⟩⟩⟩⟩
    have hexec := exec_openMsg_of_passed hpass hgood
    have hresult : openResult s = if tag = expected then some _ else none := openResult_eq_ite hgood
    by_cases htag : tag = expected
    · rw [if_pos htag] at hresult
      have hlen := openResult_length hresult
      have hsmall : s.bodyLen < 2 ^ 64 := lt_of_le_of_lt (Nat.sub_le _ _) s.srcLen.isLt
      rw [hresult] at hexec
      refine ⟨_, hexec, messageEnd_memoryFrame s _ _ hlen, messageEnd_frame s _ _ _ _, ?_⟩
      rw [if_pos htag]
      exact ⟨rfl, toNat_messageEnd_outLen s _ _ hsmall, messageEnd_bytesAt s _ _ hlen,
        congrArg (s.requests ++ ·) (gcmRequests_eq s s.bodyLen)⟩
    · rw [if_neg htag] at hresult
      rw [hresult] at hexec
      refine ⟨_, hexec, messageEnd_memoryFrame s _ _ (zeros_length _), messageEnd_frame s _ _ _ _, ?_⟩
      rw [if_neg htag]
      exact ⟨rfl, rfl, messageEnd_bytesAt s _ _ (zeros_length _), rfl⟩

/-! ### SEAL, then OPEN of its output (44_gcm R216) -/

/-- A region that shares no byte with the written one reads as before. -/
theorem MemoryFrame.readN_eq {s t : State} {base n a m : Nat} (h : MemoryFrame s t base n) (hapart : ¬AnyOverlap base n a m) :
    Memory.readN t.mem a m = Memory.readN s.mem a m := by
  refine Memory.readN_congr m t.mem s.mem a fun b hlo hhi => h b ?_
  unfold AnyOverlap at hapart
  omega

/-- `u` is pointed at what SEAL read and wrote from `s`: the same context, nonce and associated data, its bytes as the message. -/
structure ReadsSealed (s u : State) : Prop where
  ctx : u.ctx = s.ctx
  cipher : u.cipher = s.cipher
  length : u.srcLen.toNat = s.srcLen.toNat + s.ctx.tagSize.toNat
  nonce : u.bytesOf u.nonceRegion = s.bytesOf s.nonceRegion
  message : u.bytesOf u.srcRegion = sealBytes s
  aad : u.bytesOf u.aadRegion = s.bytesOf s.aadRegion

section
variable {s u : State} (h : ReadsSealed s u)
include h

theorem ReadsSealed.bodyLen : u.bodyLen = s.srcLen.toNat := by
  rw [State.bodyLen, State.ts, h.ctx, h.length, Nat.add_sub_cancel]

theorem ReadsSealed.lengthGood (hlen : s.srcLen.toNat ≤ CAP) : ¬OpenLengthBad u := by
  rw [OpenLengthBad, h.length, h.ctx]
  omega

/-- Open undoes Seal (44_gcm R216). -/
theorem ReadsSealed.openResult (hts : s.ctx.tagSize.toNat ≤ 16) (hlen : s.srcLen.toNat ≤ CAP) :
    openResult u = some (s.bytesOf s.srcRegion) := by
  rw [Machine.openResult, h.nonce, h.message, h.aad, State.ts, h.ctx, h.cipher]
  exact openUndoesSeal _ (encrypt_length s.cipher) _ _ _ _ _ hts (by rwa [bytesOf_length])

end

/-- SEAL writes over no byte of its own inputs but the plaintext, so the host can point OPEN at them. -/
theorem readsSealed_of_exec {s t : State} (d : Word) (hts : s.ctx.tagSize.toNat ≤ 16) (hpass : NoneHolds (tests .sealMsg s))
    (hnonce : ¬AnyOverlap s.dstAddr.toNat (s.srcLen.toNat + s.ctx.tagSize.toNat) s.nonceAddr.toNat s.nonceLen.toNat)
    (ht : exec .sealMsg s = .next t) : ReadsSealed s { t with srcAddr := s.dstAddr, srcLen := t.outLen, dstAddr := d } := by
  obtain ⟨hv, hn, hlen, ha, hp, hclash⟩ := (noneHolds_sealMsg_iff s).1 hpass
  obtain ⟨-, haad⟩ := not_or.1 hclash
  obtain ⟨-, -, -, -, -, -, -, hpassed⟩ := sealWritesCiphertextAndTag s hts
  obtain ⟨t', ht', hbytes, hmem, hout, -, hframe⟩ := hpassed hv hn hlen ha hp hclash
  cases ht'.symm.trans ht
  have hnonceRegion : t.nonceRegion = s.nonceRegion := by rw [hframe]; rfl
  have haadRegion : t.aadRegion = s.aadRegion := by rw [hframe]; rfl
  refine ⟨?ctx, ?cipher, hout, ?nonce, ?message, ?aad⟩
  case ctx => change t.ctx = s.ctx; rw [hframe]
  case cipher => change t.cipher = s.cipher; rw [hframe]
  case nonce =>
    change t.bytesOf t.nonceRegion = _
    rw [hnonceRegion]
    exact hmem.readN_eq hnonce
  case message =>
    change t.bytesAt s.dstAddr t.outLen.toNat = _
    rw [hout]
    exact hbytes
  case aad =>
    change t.bytesOf t.aadRegion = _
    rw [haadRegion]
    exact hmem.readN_eq haad

/-- Settles O39: OPEN reads what SEAL read and wrote, so its answer is SEAL's plaintext. -/
theorem sealThenOpenGivesThePlaintext : Obligations.SealThenOpenGivesThePlaintext := by
  intro s t d hts hseal hnonce ht u hopen
  obtain ⟨-, -, hlen, -⟩ := (noneHolds_sealMsg_iff s).1 hseal
  have hu : ReadsSealed s u := readsSealed_of_exec d hts hseal hnonce ht
  have hfault : t.fault = s.fault := by
    cases (exec_sealMsg_of_passed hseal).symm.trans ht
    rfl
  have hw := exec_openMsg_of_passed hopen (hu.lengthGood hlen)
  rw [hu.openResult hts hlen, hu.bodyLen] at hw
  exact ⟨_, hw, rfl, hfault, BitVec.eq_of_toNat_eq (toNat_messageEnd_outLen u _ _ s.srcLen.isLt),
    messageEnd_bytesAt u _ _ (bytesOf_length s s.srcRegion)⟩

/-! ### INIT, DERIVE and AUTH (44_gcm R192, R200, R206) -/

/-- Settles O29: the three checks in order, and what each end of INIT leaves. -/
theorem initBuildsOrClearsTheContext : Obligations.InitBuildsOrClearsTheContext := by
  intro s
  rw [exec_initCtx, execInit]
  by_cases htag : s.cfgTagSize.toNat < 12 ∨ 16 < s.cfgTagSize.toNat
  · refine ⟨_, if_pos htag, rfl, rfl, fun _ => rfl, ?_⟩
    rw [if_pos htag]
    exact ⟨rfl, rfl, List.append_nil _⟩
  by_cases hnonce : s.cfgNonceSize.toNat = 0 ∨ 2 ^ 61 ≤ s.cfgNonceSize.toNat
  · refine ⟨_, (if_neg htag).trans (if_pos hnonce), rfl, rfl, fun _ => rfl, ?_⟩
    rw [if_neg htag, if_pos hnonce]
    exact ⟨rfl, rfl, List.append_nil _⟩
  by_cases hblock : s.cipher.blockSize ≠ 16
  · refine ⟨_, (if_neg htag).trans ((if_neg hnonce).trans (if_pos hblock)), rfl, rfl, fun _ => rfl, ?_⟩
    rw [if_neg htag, if_neg hnonce, if_pos hblock]
    exact ⟨rfl, rfl, rfl⟩
  · refine ⟨_, (if_neg htag).trans ((if_neg hnonce).trans (if_neg hblock)), rfl, rfl, fun _ => rfl, ?_⟩
    rw [if_neg htag, if_neg hnonce, if_neg hblock]
    exact ⟨rfl, rfl, rfl, rfl, rfl, rfl⟩

/-- Settles O30: with a legal field the tests decide in R248's order; past them DERIVE writes one register. -/
theorem deriveGivesTheFirstCounter : Obligations.DeriveGivesTheFirstCounter := by
  intro vd s hvd
  have herror {code : Byte} (h : FirstIs code (tests (.derive vd) s)) : exec (.derive vd) s = .next (fatal s code) :=
    (testsDerive_decide vd s).exec_of_firstIs rfl h
  have hreg := not_above7 hvd
  refine ⟨wordOf_eq_cmdWord 0x43 vd 0 0, fun hv => herror (firstIs_later hreg (firstIs_here hv)),
    fun hv hn => herror ?nonceLen, fun hv hn hp => herror ?range, fun hv hn hfits => ?passed⟩
  case nonceLen =>
    exact firstIs_later hreg (firstIs_later (valid_ne_false hv) (firstIs_here ((wrongNonce_iff s).2 hn)))
  case range =>
    exact firstIs_later hreg (firstIs_later (valid_ne_false hv) (firstIs_later (not_wrongNonce hn) (firstIs_here hp)))
  case passed =>
    have hpass : NoneHolds (tests (.derive vd) s) :=
      noneHolds_cons.2 ⟨hreg, noneHolds_cons.2 ⟨valid_ne_false hv, noneHolds_cons.2 ⟨not_wrongNonce hn,
        noneHolds_cons.2 ⟨hfits.not_gt, noneHolds_nil⟩⟩⟩⟩
    obtain ⟨t, ht, hget, hframe⟩ := guarded_setV ((testsDerive_decide vd s).firstFailed_eq_none_iff.2 hpass) hvd s
      fun s => fromBytes (deriveCounter (s.bytesOf s.nonceRegion) s.ctx.table)
    have hcounter : toBytes (t.getV vd) = deriveCounter (s.bytesAt s.nonceAddr s.nonceLen.toNat) s.ctx.table := by
      rw [hget, toBytes_fromBytes _ (deriveCounter_length _ _)]
      rfl
    refine ⟨t, ht, hcounter, fun htwelve => ?_, hframe⟩
    have hlen : s.nonceLen.toNat = 12 := congrArg BitVec.toNat htwelve
    rw [hcounter, hlen]
    exact deriveCounter_of_twelve (Memory.readN_length _ _ _) _

/-- Settles O33: with legal fields the tests decide in R248's order; past them AUTH writes one register. -/
theorem authComputesTheTag : Obligations.AuthComputesTheTag := by
  intro vd va s hvd hva past
  have herror {code : Byte} (h : FirstIs code (tests (.auth vd va) s)) : exec (.auth vd va) s = .next (fatal s code) :=
    (testsAuth_decide vd va s).exec_of_firstIs rfl h
  have hregs : ¬(Above7 vd ∨ Above7 va) := not_or.2 ⟨not_above7 hvd, not_above7 hva⟩
  refine ⟨wordOf_eq_cmdWord 0x44 vd va 0, fun hv => herror (firstIs_later hregs (firstIs_here hv)),
    fun hv hl => herror ?tooLarge, fun hv hl ha => herror ?aadTooLarge, fun hv hl ha hp => herror ?range,
    fun hv hl ha hp => ?passed⟩
  case tooLarge => exact firstIs_later hregs (firstIs_later (valid_ne_false hv) (firstIs_here hl))
  case aadTooLarge =>
    exact firstIs_later hregs (firstIs_later (valid_ne_false hv) (firstIs_later hl.not_gt (firstIs_here ha)))
  case range =>
    exact firstIs_later hregs (firstIs_later (valid_ne_false hv) (firstIs_later hl.not_gt (firstIs_later ha.not_ge
      (firstIs_here hp))))
  case passed =>
    have hpass : NoneHolds (tests (.auth vd va) s) :=
      noneHolds_cons.2 ⟨hregs, noneHolds_cons.2 ⟨valid_ne_false hv, noneHolds_cons.2 ⟨hl.not_gt,
        noneHolds_cons.2 ⟨ha.not_ge, noneHolds_cons.2 ⟨hp, noneHolds_nil⟩⟩⟩⟩⟩
    obtain ⟨t, ht, hget, hframe⟩ := guarded_setV ((testsAuth_decide vd va s).firstFailed_eq_none_iff.2 hpass) hvd s
      fun s => fromBytes (authTag (s.bytesOf s.srcRegion) (s.bytesOf s.aadRegion) (toBytes (s.getV va)) s.ctx.table)
    refine ⟨t, ht, ?_, hframe⟩
    rw [hget, toBytes_fromBytes _ (authTag_length _ _ _ _ (toBytes_length _))]
    rfl

end Sys2Proof.Machine
end

section
/-! PROOFS, the random-nonce wrapper (45_random_nonce). The wrapper's own tests come before it looks at its context or at the core,
so what they refuse is refused in every phase, at once. -/

namespace Sys2Proof.Machine

section
variable {dst nlen src len aad alen : Word}

/-- A step takes the head of the script off it before it acts on it. -/
theorem step_withScript_cons (s : State) (e : HostEvent) (rest : List HostEvent) :
    step { s with script := e :: rest } = hostStep e { s with script := rest } := step_of_script_cons rfl

/-- The wrapper's `NonceSize()` is 0 (R230), so a nonce of any other length is one the caller supplied. -/
theorem nonceSupplied_iff : nlen.toNat ≠ wrapperNonceSize ↔ nlen ≠ 0 := BitVec.toNat_ne_iff_ne (y := (0 : Word))

/-- R232's first test. -/
theorem hostRseal_of_nonceSupplied (hnonce : nlen ≠ 0) (s : State) :
    hostRseal dst nlen src len aad alen s = .next (s.observe .hostAbort) := if_pos (.inl (nonceSupplied_iff.2 hnonce))

/-- R234's first test. -/
theorem hostRopen_of_nonceSupplied (hnonce : nlen ≠ 0) (s : State) :
    hostRopen dst nlen src len aad alen s = .next (s.observe .hostAbort) := if_pos (nonceSupplied_iff.2 hnonce)

/-- R234's second test: the message cannot hold a nonce of 12 bytes and a tag of 16. -/
theorem hostRopen_of_short (hnonce : nlen = 0) (hshort : len.toNat < 28) (s : State) :
    hostRopen dst nlen src len aad alen s = .next (s.observe .authenticationFailed) :=
  have hnone : ¬nlen.toNat ≠ wrapperNonceSize := fun h => nonceSupplied_iff.1 h hnonce
  have hoverhead : len.toNat < wrapperOverhead := hshort
  (if_neg hnone).trans (if_pos hoverhead)

end

/-- Settles O60: a step takes the pseudo-operation off the script and answers by its first test that fails. -/
theorem wrapperRefusesANonceAndAShortMessage : Obligations.WrapperRefusesANonceAndAShortMessage := by
  intro s dst nlen src len aad alen rest
  refine ⟨fun hnonce => ?rseal, fun hnonce => ?ropen, fun hnonce hshort => ?short⟩
  case rseal => exact (step_withScript_cons s _ rest).trans (hostRseal_of_nonceSupplied hnonce _)
  case ropen => exact (step_withScript_cons s _ rest).trans (hostRopen_of_nonceSupplied hnonce _)
  case short => exact (step_withScript_cons s _ rest).trans (hostRopen_of_short hnonce hshort _)

end Sys2Proof.Machine
end

section
/-! PROOFS, the exceptions (60_exceptions). Part 1: how a command ends. The tests name its fatal error, if it has one; without one it
completes, with a result code and FAULT and FCAUSE as they were. -/

namespace Sys2Proof.Machine

open Sys2Proof.Reference

/-! ### Every command's tests decide R248's propositions -/

theorem testRegs_iff_one_of_three_above7 {r q p : RegField} :
    (testRegs [r, q, p]).1 = true ↔ Above7 r ∨ Above7 q ∨ Above7 p := by
  simp [testRegs, Above7, ← Bool.not_eq_true, ok_iff_le_seven]

/-- The tests of FMUL, CENC and CINC. -/
theorem decides_regs_notReady (vd va : RegField) (s : State) :
    Decides [testRegs [vd, va], testNotReady s] [(Above7 vd ∨ Above7 va, 0x01), (s.ctx.valid = false, 0x02)] :=
  .cons ⟨testRegs_iff_either_above7, rfl⟩ <| .cons ⟨testNotReady_iff s, rfl⟩ .nil

theorem testsGhupd_decide (vd : RegField) (s : State) : Decides (testsGhupd vd s) (tests (.ghupd vd) s) :=
  .cons ⟨testRegs_iff_above7, rfl⟩ <| .cons ⟨testNotReady_iff s, rfl⟩ <| .cons ⟨testRange_singleton_iff s.srcRegion, rfl⟩ .nil

theorem testsCtrx_decide (vd : RegField) (s : State) : Decides (testsCtrx vd s) (tests (.ctrx vd) s) :=
  .cons ⟨testRegs_iff_above7, rfl⟩ <| .cons ⟨testNotReady_iff s, rfl⟩ <| .cons ⟨testMsgTooLarge_iff s, rfl⟩ <|
    .cons ⟨testRange_ctrxRegions_iff s, rfl⟩ <| .cons ⟨ctrxOverlap_iff s, rfl⟩ .nil

/-- A command's fatal error is that of the first failed test of a list that decides R248's. -/
theorem exists_tests_decide (i : Instr) (s : State) : ∃ l, fatalCause i s = firstFailed l ∧ Decides l (tests i s) := by
  cases i with
  | fadd vd va vb => exact ⟨testsFadd vd va vb, rfl, .cons ⟨testRegs_iff_one_of_three_above7, rfl⟩ .nil⟩
  | fdbl vd va => exact ⟨testsFdbl vd va, rfl, .cons ⟨testRegs_iff_either_above7, rfl⟩ .nil⟩
  | fmul vd va => exact ⟨testsFmul vd va s, rfl, decides_regs_notReady vd va s⟩
  | ghupd vd => exact ⟨testsGhupd vd s, rfl, testsGhupd_decide vd s⟩
  | ctrx vd => exact ⟨testsCtrx vd s, rfl, testsCtrx_decide vd s⟩
  | cenc vd va => exact ⟨testsCenc vd va s, rfl, decides_regs_notReady vd va s⟩
  | cinc vd va => exact ⟨testsCinc vd va s, rfl, decides_regs_notReady vd va s⟩
  | initCtx => exact ⟨[], rfl, .nil⟩
  | sealMsg => exact ⟨testsSeal s, rfl, testsSeal_decide s⟩
  | openMsg => exact ⟨testsOpen s, fatalCause_openMsg_eq_firstFailed s, testsOpen_decide s⟩
  | derive vd => exact ⟨testsDerive vd s, rfl, testsDerive_decide vd s⟩
  | auth vd va => exact ⟨testsAuth vd va s, rfl, testsAuth_decide vd va s⟩

/-! ### A command without a fatal error completes -/

/-- The command answers a next state with a result code, FAULT and FCAUSE as they were (10_state R27). -/
def Completes (s : State) (o : Out) : Prop :=
  ∃ (t : State) (r : ResultCode), o = .next t ∧ t.fault = s.fault ∧ t.fcause = s.fcause ∧ t.result = r.code

theorem Completes.finish {s u : State} (r : ResultCode) (hfault : u.fault = s.fault) (hfcause : u.fcause = s.fcause) :
    Completes s (.next (u.finish r)) := ⟨u.finish r, r, rfl, hfault, hfcause, rfl⟩

theorem Completes.guarded {s : State} {tests : List (Bool × Cause)} {work : State → Out} (h : firstFailed tests = none)
    (hwork : Completes s (work s)) : Completes s (Machine.guarded tests s work) := by
  rwa [guarded_of_none h]

theorem execInit_completes (s : State) : Completes s (execInit s) := by
  unfold execInit
  split_ifs <;> exact .finish _ rfl rfl

theorem execOpen_completes {s : State} (h : fatalCause .openMsg s = none) : Completes s (execOpen s) := by
  rw [fatalCause_openMsg, Option.or_eq_none_iff] at h
  obtain ⟨hbefore, hafter⟩ := h
  refine .guarded hbefore ?_
  split
  · exact .finish _ rfl rfl
  · next hgood =>
    rw [if_neg hgood] at hafter
    refine .guarded hafter ?_
    cases openResult s <;> exact .finish _ rfl rfl

/-- The same, for a command by name. -/
theorem Completes.exec {i : Instr} {s : State} {tests : List (Bool × Cause)} {work : State → Out}
    (he : exec i s = Machine.guarded tests s work) (h : firstFailed tests = none) (hwork : Completes s (work s)) :
    Completes s (exec i s) := he ▸ .guarded h hwork

theorem exec_completes {i : Instr} {s : State} (h : fatalCause i s = none) : Completes s (exec i s) := by
  cases i with
  | fadd vd va vb => exact .exec (exec_fadd vd va vb s) h (.finish _ rfl rfl)
  | fdbl vd va => exact .exec (exec_fdbl vd va s) h (.finish _ rfl rfl)
  | fmul vd va => exact .exec (exec_fmul vd va s) h (.finish _ rfl rfl)
  | ghupd vd => exact .exec (exec_ghupd vd s) h (.finish _ rfl rfl)
  | ctrx vd => exact .exec (exec_ctrx vd s) h (.finish _ rfl rfl)
  | cenc vd va => exact .exec (exec_cenc vd va s) h (.finish _ rfl rfl)
  | cinc vd va => exact .exec (exec_cinc vd va s) h (.finish _ rfl rfl)
  | initCtx => exact execInit_completes s
  | sealMsg => exact .exec (exec_sealMsg s) h (.finish _ rfl rfl)
  | openMsg => exact execOpen_completes h
  | derive vd => exact .exec (exec_derive vd s) h (.finish _ rfl rfl)
  | auth vd va => exact .exec (exec_auth vd va s) h (.finish _ rfl rfl)

/-! ### FAULT and FCAUSE after a command -/

theorem status_of_exec {i : Instr} {s t : State} (h : exec i s = .next t) :
    t.fault = (s.fault || (fatalCause i s).isSome) ∧ t.fcause = (fatalCause i s).elim s.fcause Cause.code := by
  cases hc : fatalCause i s with
  | some c =>
    cases (exec_of_fatalCause hc).symm.trans h
    exact ⟨(Bool.or_true _).symm, rfl⟩
  | none =>
    obtain ⟨u, r, hu, hfault, hfcause, -⟩ := exec_completes hc
    cases hu.symm.trans h
    exact ⟨hfault.trans (Bool.or_false _).symm, hfcause⟩

/-- The state with all that can hold a secret of R242 replaced: memory, the vector registers, the product table, the cipher. -/
def State.withSecrets (s : State) (m : Memory) (v : Vector FieldElement 8) (tab : Table) (e : Cipher) : State :=
  { s with mem := m, vregs := v, ctx := { s.ctx with table := tab }, cipher := e }

/-- Every test is on the command word, an operand register or the context's sizes (60_exceptions R242). -/
theorem fatalCause_withSecrets (i : Instr) (s : State) (m : Memory) (v : Vector FieldElement 8) (tab : Table) (e : Cipher) :
    fatalCause i (s.withSecrets m v tab e) = fatalCause i s := by
  cases i <;> rfl

/-! ### The statements on commands -/

/-- Settles O42: the tests decide the propositions, so the first that holds is the cause, and with none the command completes. -/
theorem firstTestDecidesTheFatalError : Obligations.FirstTestDecidesTheFatalError := by
  intro i s
  obtain ⟨l, hcause, hdecides⟩ := exists_tests_decide i s
  refine ⟨fun code hfirst => hdecides.exec_of_firstIs hcause hfirst, fun hnone => ?_⟩
  have hpassed : fatalCause i s = none := hcause.trans (hdecides.firstFailed_eq_none_iff.2 hnone)
  obtain ⟨t, r, ht, hfault, hfcause, hresult⟩ := exec_completes hpassed
  exact ⟨t, ht, hfault, hfcause, hresult ▸ r.code_le⟩

/-- Settles O43: a command that completes leaves FAULT as it was, so one that raised it ended in a fatal error. -/
theorem fatalErrorChangesTheStatusOnly : Obligations.FatalErrorChangesTheStatusOnly := by
  intro i s t hs h ht
  cases hc : fatalCause i s with
  | some c =>
    cases (exec_of_fatalCause hc).symm.trans h
    obtain ⟨hlo, hhi⟩ := c.code_range
    exact ⟨c.code, hlo, hhi, rfl⟩
  | none =>
    obtain ⟨hfault, -⟩ := status_of_exec h
    simp [hc, hs, ht] at hfault

/-- Settles O44: FAULT and FCAUSE come from the old ones and the cause, and no test looks at a secret. -/
theorem fatalErrorDependsOnNoSecret : Obligations.FatalErrorDependsOnNoSecret := by
  intro i s t t' m v tab e h h'
  obtain ⟨hfault, hfcause⟩ := status_of_exec h
  obtain ⟨hfault', hfcause'⟩ := status_of_exec (s := s.withSecrets m v tab e) h'
  rw [fatalCause_withSecrets] at hfault' hfcause'
  exact ⟨hfault.trans hfault'.symm, hfcause.trans hfcause'.symm⟩

end Sys2Proof.Machine
end

section
/-! PROOFS, the exceptions (60_exceptions). Part 2: phase FAULTED. Of the host's events only the two resets reach what a command
leaves behind. -/

namespace Sys2Proof.Machine

open Sys2Proof.Reference

/-- What in phase FAULTED only a reset may change: the status, the context, OUT_LEN, the command latch, and the record of
requests. -/
def State.faultRecord (s : State) : Bool × Byte × Byte × Context × Word × Word × Bool × List CipherRequest :=
  (s.fault, s.fcause, s.result, s.ctx, s.outLen, s.cmdl, s.busy, s.requests)

theorem faultRecord_eq_iff {s t : State} : t.faultRecord = s.faultRecord ↔
    t.fault = s.fault ∧ t.fcause = s.fcause ∧ t.result = s.result ∧ t.ctx = s.ctx ∧ t.outLen = s.outLen ∧ t.cmdl = s.cmdl ∧
      t.busy = s.busy ∧ t.requests = s.requests := by
  simp only [State.faultRecord, Prod.mk.injEq]

theorem phase_of_fault {s : State} (hf : s.fault = true) : phase s = .faulted := if_pos hf

theorem coreTurn_of_fault {s : State} (hf : s.fault = true) : coreTurn s = .next s :=
  coreTurn_of_not_busy (by simp [phase_of_fault hf])

theorem faultRecord_writeOperand (s : State) (r : HostReg) (v : Word) :
    (s.writeOperand r v).faultRecord = s.faultRecord := by
  cases r <;> rfl

/-- No command is accepted, and an operand write is no way out (60_exceptions R243). -/
theorem writeReg_of_fault {s : State} (hf : s.fault = true) (r : HostReg) (v : Word) :
    (s.writeReg r v).faultRecord = s.faultRecord ∨ (r = .ctrl ∧ v.getLsbD 0 = true ∧ s.writeReg r v = s.coreReset) := by
  have hphase := phase_of_fault hf
  by_cases hctrl : r = .ctrl
  · subst hctrl
    cases hv : v.getLsbD 0 with
    | false => exact .inl (by rw [writeReg_ctrl_clear s hv])
    | true => exact .inr ⟨rfl, rfl, writeReg_ctrl_set s hv⟩
  · left
    by_cases hcmd : r = .cmd
    · subst hcmd
      rw [writeReg_cmd_not_idle (by simp [hphase])]
    · rw [writeReg_other (by simp [hphase]) hctrl hcmd, faultRecord_writeOperand]

theorem hostStep_of_fault {e : HostEvent} {s t : State} (hf : s.fault = true) (h : hostStep e s = .next t) :
    t.faultRecord = s.faultRecord ∨
      (t = s.coreReset ∧ (e = .resetInput ∨ ∃ v, e = .writeReg 0x02 v ∧ v.getLsbD 0 = true)) := by
  cases e with
  | writeReg n v =>
    cases h
    obtain hkept | ⟨hr, hv, hreset⟩ := writeReg_of_fault hf (hostReg n) v
    · exact .inl hkept
    · obtain rfl := (hostReg_ctrl_iff n).1 hr
      exact .inr ⟨hreset, .inr ⟨v, rfl, hv⟩⟩
  | readReg n => cases h; exact .inl (by rw [hostRead_frame]; rfl)
  | writeMem addr bytes => exact .inl (by rw [hostWriteMem_next h]; rfl)
  | readMem addr len => exact .inl (by rw [hostReadMem_next h]; rfl)
  | resetInput => cases h; exact .inr ⟨rfl, .inl rfl⟩
  | coreTurn => cases (coreTurn_of_fault hf).symm.trans h; exact .inl rfl
  | rseal dst nlen src len aad alen => obtain rfl | ⟨-, rfl⟩ := hostRseal_next h <;> exact .inl rfl
  | ropen dst nlen src len aad alen => obtain rfl | rfl | ⟨-, rfl⟩ := hostRopen_next h <;> exact .inl rfl

/-- The script is no piece of the core. -/
theorem resetsTheCore_coreReset (s : State) (rest : List HostEvent) :
    ResetsTheCore s ({ s with script := rest } : State).coreReset := rfl

/-- Settles O52: the core has no step in phase FAULTED, and a host event other than a reset keeps what the fault left. -/
theorem faultStaysUntilReset : Obligations.FaultStaysUntilReset := by
  intro s t hf h
  have hstays (hkept : t.faultRecord = s.faultRecord) := hf ▸ faultRecord_eq_iff.1 hkept
  cases hscript : s.script with
  | nil =>
    rw [step_of_script_nil hscript, coreTurn_of_fault hf] at h
    cases h
    exact .inl (hstays rfl)
  | cons e rest =>
    rw [step_of_script_cons hscript] at h
    obtain hkept | ⟨rfl, rfl | ⟨v, rfl, hv⟩⟩ := hostStep_of_fault (s := { s with script := rest }) hf h
    · exact .inl (hstays hkept)
    · exact .inr (.inl ⟨rest, rfl, resetsTheCore_coreReset s rest⟩)
    · exact .inr (.inr ⟨v, rest, rfl, hv, resetsTheCore_coreReset s rest⟩)

end Sys2Proof.Machine
end

section
/-! PROOFS, reset and hazards (70_reset_and_hazards). Part 1: progress. A register access in phase BUSY resets the core or leaves it
BUSY with one event of the script less; the core's turn, which comes with the script used up at the latest, ends the phase. -/

namespace Sys2Proof.Machine

theorem phase_ne_busy {s : State} (h : s.busy = false) : phase s ≠ .busy := by
  unfold phase
  cases s.fault <;> simp [h]

theorem phase_coreReset (s : State) : phase s.coreReset = .idle := rfl

/-- The command step ends phase BUSY whatever word is latched: each way a command ends, and the fatal error of an illegal word, has
BUSY = 0 (10_state R44). -/
theorem coreTurn_leaves_busy {s : State} (hb : phase s = .busy) : ∃ t, coreTurn s = .next t ∧ phase t ≠ .busy := by
  obtain ⟨-, i, -, hturn⟩ | ⟨-, -, hturn⟩ | ⟨hnot, -⟩ := coreTurn_cases s
  · obtain ⟨t, ht, heff⟩ := exec_effect i s
    exact ⟨t, hturn.trans ht, phase_ne_busy (by rw [heff.frame])⟩
  · exact ⟨_, hturn, phase_ne_busy rfl⟩
  · exact absurd hb hnot

theorem writeReg_leaves_or_keeps {s : State} (hb : phase s = .busy) (r : HostReg) (v : Word) :
    phase (s.writeReg r v) ≠ .busy ∨ s.writeReg r v = s := by
  obtain hsame | hreset | ⟨hidle, -⟩ | ⟨hnot, -⟩ := writeReg_cases s r v
  · exact .inr hsame
  · left; rw [hreset, phase_coreReset]; decide
  · exact absurd (hidle.symm.trans hb) (by decide)
  · exact absurd hb hnot

/-- The host events with an outcome in phase BUSY whatever the state (70_reset R298, log 4): register accesses, the core's turn, the
reset input. -/
def RegisterEvent (e : HostEvent) : Prop :=
  e = .coreTurn ∨ e = .resetInput ∨ (∃ n, e = .readReg n) ∨ ∃ n v, e = .writeReg n v

/-- One such event in phase BUSY: it ends the phase, or the core waits for the rest of the script. -/
theorem hostStep_leaves_or_waits {s : State} {e : HostEvent} (hb : phase s = .busy) (he : RegisterEvent e) :
    ∃ t, hostStep e s = .next t ∧ (phase t ≠ .busy ∨ (phase t = .busy ∧ t.script = s.script)) := by
  obtain rfl | rfl | ⟨n, rfl⟩ | ⟨n, v, rfl⟩ := he
  · obtain ⟨t, ht, hleft⟩ := coreTurn_leaves_busy hb
    exact ⟨t, ht, .inl hleft⟩
  · exact ⟨_, rfl, .inl (by rw [phase_coreReset]; decide)⟩
  · refine ⟨_, rfl, .inr ?_⟩
    rw [hostRead_frame]
    exact ⟨hb, rfl⟩
  · refine ⟨_, rfl, (writeReg_leaves_or_keeps hb (hostReg n) v).imp_right fun hsame => ?_⟩
    rw [hsame]
    exact ⟨hb, rfl⟩

theorem run_succ_of_step {s t : State} (h : step s = .next t) (k : Nat) : core.run (k + 1) s = core.run k t := by
  have hcore : core.step s = .next t := h
  simp only [Host.Core.run, hcore]

theorem run_one_of_step {s t : State} (h : step s = .next t) : core.run 1 s = .next t := run_succ_of_step h 0

/-- Settles O53, by induction on the script: each event of it ends the phase or is used up, and then the core takes its turn. -/
theorem busyCommandCompletesOrFaults : Obligations.BusyCommandCompletesOrFaults := by
  intro s
  induction hscript : s.script generalizing s with
  | nil =>
    intro hb _
    obtain ⟨t, ht, hleft⟩ := coreTurn_leaves_busy hb
    have hstep : step s = .next t := (step_of_script_nil hscript).trans ht
    exact ⟨1, t, Nat.le_add_left 1 _, run_one_of_step hstep, hleft⟩
  | cons e rest ih =>
    intro hb hevents
    obtain ⟨he, hrest⟩ := List.forall_mem_cons.1 hevents
    obtain ⟨t, ht, hcase⟩ := hostStep_leaves_or_waits (s := { s with script := rest }) hb he
    have hstep : step s = .next t := (step_of_script_cons hscript).trans ht
    obtain hleft | ⟨hbusy, hwaits⟩ := hcase
    · exact ⟨1, t, Nat.le_add_left 1 _, run_one_of_step hstep, hleft⟩
    · obtain ⟨k, u, hk, hrun, hleft⟩ := ih t hwaits hbusy hrest
      exact ⟨k + 1, u, Nat.succ_le_succ hk, (run_succ_of_step hstep k).trans hrun, hleft⟩

end Sys2Proof.Machine
end

section
/-! PROOFS, reset and hazards (70_reset_and_hazards). Part 2: the buffers of a running command. Acceptance claims the regions of R70,
and a host access that shares a byte with a claimed region is refused. -/

namespace Sys2Proof.Machine

/-- What the acceptance of a legal word that ends in no fatal error claims (20_memory R70, 70_reset R290). -/
theorem acceptCommand_claims {s : State} {v : Word} {i : Instr} (hd : decode v = .ok i) (hc : fatalCause i s = none) :
    (s.acceptCommand v).claimedReads = regionsRead i s ++ s.claimedReads ∧
      (s.acceptCommand v).claimedWrites = regionsWritten i s ++ s.claimedWrites := by
  simp [hd, wordReads, wordWrites, hc]

/-- One byte overlaps a region when it lies in it. -/
theorem anyOverlap_byte_iff (a : Nat) (c : Region) : anyOverlap { addr := a, len := 1 } c = true ↔ c.has a = true := by
  rw [anyOverlap_iff, Region.has_iff]
  dsimp only
  omega

theorem hostWriteMem_of_overlap {s : State} {addr : Word} {bytes : Bytes} {c : Region}
    (hc : c ∈ s.claimedReads ++ s.claimedWrites)
    (hover : anyOverlap { addr := addr.toNat, len := bytes.length } c = true) :
    hostWriteMem addr bytes s = .refused .hostTouchedBuffer :=
  if_pos (Bool.or_eq_true_iff.2 (.inl (List.any_eq_true.2 ⟨c, hc, hover⟩)))

theorem hostReadMem_of_overlap {s : State} {addr : Word} {len : Nat} {c : Region} (hc : c ∈ s.claimedWrites)
    (hover : anyOverlap { addr := addr.toNat, len := len } c = true) :
    hostReadMem addr len s = .refused .hostTouchedBuffer :=
  if_pos (List.any_eq_true.2 ⟨c, hc, hover⟩)

/-- A step with a write of one claimed byte next. -/
theorem step_writeMem_of_claimed {s : State} {a : Word} {c : Region} (hc : c ∈ s.claimedReads ++ s.claimedWrites)
    (ha : c.has a.toNat = true) (b : Byte) (rest : List HostEvent) :
    step { s with script := .writeMem a [b] :: rest } = .refused .hostTouchedBuffer :=
  (step_withScript_cons s _ rest).trans
    (hostWriteMem_of_overlap (s := { s with script := rest }) hc ((anyOverlap_byte_iff _ c).2 ha))

/-- A step with a read of one byte next that a command writes. -/
theorem step_readMem_of_claimed {s : State} {a : Word} {c : Region} (hc : c ∈ s.claimedWrites) (ha : c.has a.toNat = true)
    (rest : List HostEvent) : step { s with script := .readMem a 1 :: rest } = .refused .hostTouchedBuffer :=
  (step_withScript_cons s _ rest).trans
    (hostReadMem_of_overlap (s := { s with script := rest }) hc ((anyOverlap_byte_iff _ c).2 ha))

/-- Settles O59: the acceptance of SEAL claims its three inputs as read and its output as written. -/
theorem buffersOfARunningSealAreRefused : Obligations.BuffersOfARunningSealAreRefused := by
  rintro s t a b rest - hc rfl
  have hd : decode 0x41 = .ok .sealMsg := rfl
  obtain ⟨hreads, hwrites⟩ := acceptCommand_claims hd hc
  have hout : sealOut s ∈ (s.acceptCommand 0x41).claimedWrites := by
    rw [hwrites]
    exact List.mem_append_left _ (List.mem_singleton_self _)
  have hin (c : Region) (h : c ∈ regionsRead .sealMsg s) :
      c ∈ (s.acceptCommand 0x41).claimedReads ++ (s.acceptCommand 0x41).claimedWrites := by
    rw [hreads]
    exact List.mem_append_left _ (List.mem_append_left _ h)
  refine ⟨?write, fun ha => step_readMem_of_claimed hout ha rest⟩
  case write =>
    rintro (ha | ha | ha | ha)
    · exact step_writeMem_of_claimed (List.mem_append_right _ hout) ha b rest
    · exact step_writeMem_of_claimed (hin s.srcRegion (by simp [regionsRead])) ha b rest
    · exact step_writeMem_of_claimed (hin s.aadRegion (by simp [regionsRead])) ha b rest
    · exact step_writeMem_of_claimed (hin s.nonceRegion (by simp [regionsRead])) ha b rest

end Sys2Proof.Machine
end
